-- ==== Sys2Proof/Word.lean ====
section
/-! DEFINITION. The plain words of the model: bytes, 32-bit register values, frames. -/

namespace Sys2Proof

/-- A byte of host memory or of a frame (R36). -/
abbrev Byte := BitVec 8

/-- A 32-bit register value, "the whole 32-bit value of register NAME" (R12, R56). -/
abbrev Word := BitVec 32

/-- A frame is a byte sequence (R41). -/
abbrev Frame := List Byte

/-- R11: a stored register field is a cell that holds either a value of its width or `⊥` (*unwritten*).
`none` is the spec's own value `⊥`, which the spec states as a reset value (R178), not a missing one. -/
abbrev RegCell (w : Nat) := Option (BitVec w)

end Sys2Proof
end

