-- ==== Sys2Proof/Config.lean ====
section
/-! DEFINITION. What is fixed for a machine: the constants and parameters of R8, and the one free value
of the model, the draw of R11. -/

namespace Sys2Proof.Config

/-- R11: "any value of the stated width, under no law, chosen afresh at each step that draws it". The
`k`-th draw of a run is `draw k`; an N-bit draw is its low N bits. It has no body, so no proof can know
its value. (Log entry 2.) -/
opaque draw : Nat → Word

/-- REG_SIZE, byte size of the register window (R8). -/
def regSize : Nat := 0x20000
/-- PA_BITS, width of a physical address the device can reach (R8). -/
def paBits : Nat := 32
/-- EEPROM_WORDS (R8). -/
def eepromWords : Nat := 64
/-- RA_ENTRIES, receive-address register pairs (R8). -/
def raEntries : Nat := 16
/-- MTA_ENTRIES, 32-bit multicast table words (R8). -/
def mtaEntries : Nat := 128
/-- TX_DESC_MAX_LEN, largest length a TX descriptor may carry (R8). -/
def txDescMaxLen : Nat := 16288
/-- MIN_FRAME, shortest frame the link delivers and the length PSP pads to (R8). -/
def minFrame : Nat := 60
/-- RX_MAX_NOLPE, longest frame accepted with RCTL.LPE = 0 (R8). -/
def rxMaxNoLpe : Nat := 1518
/-- RX_MAX_LPE, longest frame accepted with RCTL.LPE = 1 (R8). -/
def rxMaxLpe : Nat := 16380
/-- TX_RING_N, TX descriptors the reference host allocates (R8). -/
def txRingN : Nat := 32
/-- TX_BUF_BYTES, TX buffer capacity of the reference host (R8). -/
def txBufBytes : Nat := 1518
/-- RX_RING_N, RX descriptors the reference host allocates (R8). -/
def rxRingN : Nat := 128
/-- RX_BUF_BYTES, RX buffer size of the reference host (R8). -/
def rxBufBytes : Nat := 2048
/-- The default of the parameter LINK_STATUS (R8, R18). -/
def linkStatusDefault : Word := 0x80080783#32

end Sys2Proof.Config

namespace Sys2Proof

/-- The parameters of R8 that have no fixed value, "arguments of the model". They are constant in every
run; State carries them, so a statement about every state is a statement about every value of them.
(Log entry 3.) The OPEN function V2P, which no device rule reads, is an argument of the reference host's programs
(log entry 30). -/
structure Params where
  /-- LINK_STATUS, the value STATUS reads (R18). -/
  linkStatus : Word
  /-- MEM_BYTES, byte size of host memory reachable by DMA, at most 2^PA_BITS. -/
  memBytes : Nat
  /-- TX_INFLIGHT_MAX, at least 1. -/
  txInflightMax : Nat
  /-- RX_FIFO_FRAMES, at least 1. -/
  rxFifoFrames : Nat
  /-- EEPROM, the contents, a word for each of the EEPROM_WORDS addresses (R90). -/
  eeprom : Vector (BitVec 16) 64
  /-- REG_BASE, where the bus layer places the register window; no rule reads it. -/
  regBase : Nat
  /-- RX_SENTINEL, the byte the reference host pre-fills RX buffers with; only the host reads it. -/
  rxSentinel : Byte
deriving DecidableEq, Repr

/-- The example configuration of 95_test_vectors.md section 0 (DESIGN CHOICE for State.reset, log entry 3). -/
def Params.example : Params where
  linkStatus := Config.linkStatusDefault
  memBytes := 0x01000000
  txInflightMax := 4
  rxFifoFrames := 4
  eeprom := (((Vector.replicate 64 0xFFFF#16).set 0 0x5452#16).set 1 0x1200#16).set 2 0x5634#16
  regBase := 0xFEBC0000
  rxSentinel := 0xA5#8

end Sys2Proof
end

