-- ==== Sys2Proof/Syntax.lean ====
section
/-! DEFINITION. The syntax: the 48 CSR transactions of spec/opcode_table.json, the registers of R58, the
transaction record of R56 and the host notation of R68. -/

namespace Sys2Proof

/-- The instructions: one constructor per row of spec/opcode_table.json, a read and a write of each
register and register array (R58). Array indices have exactly the width the key gives them (R57), and a
value is the transaction's 32 bits (R56), so every term is a transaction of a documented register. -/
inductive Instr where
  /-- `csrr CTRL` (R73). -/
  | csrrCtrl
  /-- `csrw CTRL` (R74) with the value written. -/
  | csrwCtrl (v : Word)
  /-- `csrr STATUS` (R75). -/
  | csrrStatus
  /-- `csrw STATUS` (R76) with the value written. -/
  | csrwStatus (v : Word)
  /-- `csrr EECD` (R85). -/
  | csrrEecd
  /-- `csrw EECD` (R86) with the value written. -/
  | csrwEecd (v : Word)
  /-- `csrr EERD` (R87). -/
  | csrrEerd
  /-- `csrw EERD` (R88) with the value written. -/
  | csrwEerd (v : Word)
  /-- `csrr ICR` (R77). -/
  | csrrIcr
  /-- `csrw ICR` (R78) with the value written. -/
  | csrwIcr (v : Word)
  /-- `csrr ICS` (R79). -/
  | csrrIcs
  /-- `csrw ICS` (R80) with the value written. -/
  | csrwIcs (v : Word)
  /-- `csrr IMS` (R81). -/
  | csrrIms
  /-- `csrw IMS` (R82) with the value written. -/
  | csrwIms (v : Word)
  /-- `csrr IMC` (R83). -/
  | csrrImc
  /-- `csrw IMC` (R84) with the value written. -/
  | csrwImc (v : Word)
  /-- `csrr RCTL` (R111). -/
  | csrrRctl
  /-- `csrw RCTL` (R112) with the value written. -/
  | csrwRctl (v : Word)
  /-- `csrr TCTL` (R92). -/
  | csrrTctl
  /-- `csrw TCTL` (R93) with the value written. -/
  | csrwTctl (v : Word)
  /-- `csrr TIPG` (R94). -/
  | csrrTipg
  /-- `csrw TIPG` (R95) with the value written. -/
  | csrwTipg (v : Word)
  /-- `csrr RDBAL` (R113). -/
  | csrrRdbal
  /-- `csrw RDBAL` (R114) with the value written. -/
  | csrwRdbal (v : Word)
  /-- `csrr RDBAH` (R115). -/
  | csrrRdbah
  /-- `csrw RDBAH` (R116) with the value written. -/
  | csrwRdbah (v : Word)
  /-- `csrr RDLEN` (R117). -/
  | csrrRdlen
  /-- `csrw RDLEN` (R118) with the value written. -/
  | csrwRdlen (v : Word)
  /-- `csrr RDH` (R119). -/
  | csrrRdh
  /-- `csrw RDH` (R120) with the value written. -/
  | csrwRdh (v : Word)
  /-- `csrr RDT` (R121). -/
  | csrrRdt
  /-- `csrw RDT` (R122) with the value written. -/
  | csrwRdt (v : Word)
  /-- `csrr TDBAL` (R96). -/
  | csrrTdbal
  /-- `csrw TDBAL` (R97) with the value written. -/
  | csrwTdbal (v : Word)
  /-- `csrr TDBAH` (R98). -/
  | csrrTdbah
  /-- `csrw TDBAH` (R99) with the value written. -/
  | csrwTdbah (v : Word)
  /-- `csrr TDLEN` (R100). -/
  | csrrTdlen
  /-- `csrw TDLEN` (R101) with the value written. -/
  | csrwTdlen (v : Word)
  /-- `csrr TDH` (R102). -/
  | csrrTdh
  /-- `csrw TDH` (R103) with the value written. -/
  | csrwTdh (v : Word)
  /-- `csrr TDT` (R104). -/
  | csrrTdt
  /-- `csrw TDT` (R105) with the value written. -/
  | csrwTdt (v : Word)
  /-- `csrr MTA[i]` (R127). -/
  | csrrMta (i : BitVec 7)
  /-- `csrw MTA[i]` (R128) with the value written. -/
  | csrwMta (i : BitVec 7) (v : Word)
  /-- `csrr RAL[n]` (R123). -/
  | csrrRal (n : BitVec 4)
  /-- `csrw RAL[n]` (R124) with the value written. -/
  | csrwRal (n : BitVec 4) (v : Word)
  /-- `csrr RAH[n]` (R125). -/
  | csrrRah (n : BitVec 4)
  /-- `csrw RAH[n]` (R126) with the value written. -/
  | csrwRah (n : BitVec 4) (v : Word)
deriving DecidableEq, Repr

/-- The registers of the register window (R58). -/
inductive Reg where
  | ctrl
  | status
  | eecd
  | eerd
  | icr
  | ics
  | ims
  | imc
  | rctl
  | tctl
  | tipg
  | rdbal
  | rdbah
  | rdlen
  | rdh
  | rdt
  | tdbal
  | tdbah
  | tdlen
  | tdh
  | tdt
  | mta (i : BitVec 7)
  | ral (n : BitVec 4)
  | rah (n : BitVec 4)
deriving DecidableEq, Repr

/-- R56: a CSR transaction as the host issues it, admitted or not; `value` is the value written, and 0 in
a read. -/
structure Transaction where
  write : Bool
  offset : Nat
  width : Nat
  value : Word
deriving DecidableEq, Repr

/-- R44: the widths of a host memory access, 1, 2 or 4 bytes. -/
inductive Width where
  | byte
  | half
  | word
deriving DecidableEq, Repr

/-- R68, R151: the host notation's expressions, "arithmetic on unbounded integers", over constants and
the task's temporaries. The operators are those the spec's programs use (log entry 10). -/
inductive Expr where
  | lit (v : Int)
  | temp (t : Nat)
  | add (a b : Expr)
  | sub (a b : Expr)
  | mul (a b : Expr)
  /-- the non-negative remainder (R10) -/
  | mod (a b : Expr)
  | band (a b : Expr)
  | bor (a b : Expr)
  | bnot (a : Expr)
  | shl (a : Expr) (k : Nat)
  /-- the field `a[hi:lo]` (R10) -/
  | slice (a : Expr) (hi lo : Nat)
  /-- 1 when `a <= b`, else 0 -/
  | le (a b : Expr)
deriving DecidableEq, Repr

/-- R68: the forms of a host program. A CSR form carries the transaction's raw offset and width, so a host
that breaks duty H1 can be written; `%t` is the number of a temporary. -/
inductive Form where
  /-- `csrr %t, NAME` (R155) -/
  | csrr (t : Nat) (offset width : Nat)
  /-- `csrw NAME, expr` (R156) -/
  | csrw (offset width : Nat) (e : Expr)
  /-- `ldb`, `ldh`, `ldw` (R157) -/
  | load (w : Width) (t : Nat) (a : Expr)
  /-- `stb`, `sth`, `stw` (R158) -/
  | store (w : Width) (a e : Expr)
  /-- `L:` -/
  | label (l : Nat)
  /-- `beq x, y, L` (R159) -/
  | beq (x y : Expr) (l : Nat)
  /-- `bne x, y, L` (R160) -/
  | bne (x y : Expr) (l : Nat)
  /-- `x <- expr`, the host-local assignment (R68) -/
  | assign (t : Nat) (e : Expr)
  /-- `halt` (R161) -/
  | halt
  /-- `fatal` (R162) -/
  | fatal
  /-- `return v` (R68, R152) -/
  | ret (e : Expr)
deriving DecidableEq, Repr

end Sys2Proof
end

