-- ==== Sys2Proof/WellFormed.lean ====
section
/-! DEFINITION. What the spec asks of the terms around an instruction. An `Instr` needs no check of its
own: its operands have exactly the widths of the key's fields (R57) and of the value (R56). -/

namespace Sys2Proof

/-- R56: a transaction has a key when its width is 4, its offset lies in the window and is aligned. -/
def Transaction.wellFormed (t : Transaction) : Bool :=
  t.width == 4 && decide (t.offset < Config.regSize) && t.offset % 4 == 0

/-- R56, duty H1 (R136): a CSR form is an aligned 32-bit access inside the window. Other forms have no
check of their own. -/
def Form.wellFormed : Form → Bool
  | .csrr _ offset width => Transaction.wellFormed ⟨false, offset, width, 0⟩
  | .csrw offset width _ => Transaction.wellFormed ⟨true, offset, width, 0⟩
  | _ => true

/-- The label a form branches to, if it is a branch. -/
def Form.target : Form → Option Nat
  | .beq _ _ l => some l
  | .bne _ _ l => some l
  | _ => none

/-- R152: "a branch to an undefined label is not a program". -/
def labelsDefined (code : List Form) : Bool :=
  code.all fun f =>
    match f.target with
    | none => true
    | some l => code.contains (.label l)

/-- The label a form writes, if it is a label. -/
def Form.labelOf : Form → Option Nat
  | .label l => some l
  | _ => none

/-- No label is written twice: the spec gives such a program no meaning (log entry 25). -/
def labelsUnique (code : List Form) : Bool := decide (code.filterMap Form.labelOf).Nodup

/-- A host program meets R152, writes no label twice and, form by form, meets duty H1. -/
def programWellFormed (code : List Form) : Bool :=
  labelsDefined code && labelsUnique code && code.all Form.wellFormed

/-- R8: MEM_BYTES is at most 2^PA_BITS, TX_INFLIGHT_MAX and RX_FIFO_FRAMES are at least 1. -/
def Params.wellFormed (p : Params) : Bool :=
  decide (p.memBytes ≤ 2 ^ Config.paBits) && decide (1 ≤ p.txInflightMax) && decide (1 ≤ p.rxFifoFrames)

end Sys2Proof
end

