-- ==== Sys2Proof/Decode.lean ====
section
/-! DEFINITION. The decoder of CSR transactions (R56, R57), total on any bytes, and after it the encoder
from the register map (R58). The decoder reads spec/opcode_table.json's match and mask columns; the
encoder reads R58's offsets; that the two agree is a theorem, not a definition. -/

namespace Sys2Proof

/-- Why bytes are not a transaction of a documented register. -/
inductive DecodeError where
  /-- fewer bytes than the key word, or than the key word and the data word of a write -/
  | truncated
  /-- the key word has a bit above bit 17 (R56: a key has 18 bits) -/
  | keyTooWide
  /-- the offset is not a multiple of 4 (R56: such a transaction has no key) -/
  | misaligned
  /-- no row of the opcode table matches (R57) -/
  | undocumented
deriving DecidableEq, Repr

/-- A row of spec/opcode_table.json: a key matches when `key & mask = pattern` (R57). -/
structure Row where
  mnemonic : String
  pattern : BitVec 18
  mask : BitVec 18
  build : BitVec 18 → Word → Instr

/-- R57: the index of an MTA row, `i = key[8:2]`. -/
def mtaIndex (key : BitVec 18) : BitVec 7 := key.extractLsb' 2 7

/-- R57: the index of a RAL or RAH row, `n = key[6:3]`. -/
def raIndex (key : BitVec 18) : BitVec 4 := key.extractLsb' 3 4

/-- The rows of the device, interrupt and EEPROM registers. -/
def deviceRows : List Row := [
  ⟨"csrr_CTRL", 0x00000#18, 0x3FFFF#18, fun _ _ => .csrrCtrl⟩,
  ⟨"csrw_CTRL", 0x20000#18, 0x3FFFF#18, fun _ v => .csrwCtrl v⟩,
  ⟨"csrr_STATUS", 0x00008#18, 0x3FFFF#18, fun _ _ => .csrrStatus⟩,
  ⟨"csrw_STATUS", 0x20008#18, 0x3FFFF#18, fun _ v => .csrwStatus v⟩,
  ⟨"csrr_EECD", 0x00010#18, 0x3FFFF#18, fun _ _ => .csrrEecd⟩,
  ⟨"csrw_EECD", 0x20010#18, 0x3FFFF#18, fun _ v => .csrwEecd v⟩,
  ⟨"csrr_EERD", 0x00014#18, 0x3FFFF#18, fun _ _ => .csrrEerd⟩,
  ⟨"csrw_EERD", 0x20014#18, 0x3FFFF#18, fun _ v => .csrwEerd v⟩,
  ⟨"csrr_ICR", 0x000C0#18, 0x3FFFF#18, fun _ _ => .csrrIcr⟩,
  ⟨"csrw_ICR", 0x200C0#18, 0x3FFFF#18, fun _ v => .csrwIcr v⟩,
  ⟨"csrr_ICS", 0x000C8#18, 0x3FFFF#18, fun _ _ => .csrrIcs⟩,
  ⟨"csrw_ICS", 0x200C8#18, 0x3FFFF#18, fun _ v => .csrwIcs v⟩,
  ⟨"csrr_IMS", 0x000D0#18, 0x3FFFF#18, fun _ _ => .csrrIms⟩,
  ⟨"csrw_IMS", 0x200D0#18, 0x3FFFF#18, fun _ v => .csrwIms v⟩,
  ⟨"csrr_IMC", 0x000D8#18, 0x3FFFF#18, fun _ _ => .csrrImc⟩,
  ⟨"csrw_IMC", 0x200D8#18, 0x3FFFF#18, fun _ v => .csrwImc v⟩]

/-- The rows of RCTL and the RX ring registers. -/
def receiveRows : List Row := [
  ⟨"csrr_RCTL", 0x00100#18, 0x3FFFF#18, fun _ _ => .csrrRctl⟩,
  ⟨"csrw_RCTL", 0x20100#18, 0x3FFFF#18, fun _ v => .csrwRctl v⟩,
  ⟨"csrr_RDBAL", 0x02800#18, 0x3FFFF#18, fun _ _ => .csrrRdbal⟩,
  ⟨"csrw_RDBAL", 0x22800#18, 0x3FFFF#18, fun _ v => .csrwRdbal v⟩,
  ⟨"csrr_RDBAH", 0x02804#18, 0x3FFFF#18, fun _ _ => .csrrRdbah⟩,
  ⟨"csrw_RDBAH", 0x22804#18, 0x3FFFF#18, fun _ v => .csrwRdbah v⟩,
  ⟨"csrr_RDLEN", 0x02808#18, 0x3FFFF#18, fun _ _ => .csrrRdlen⟩,
  ⟨"csrw_RDLEN", 0x22808#18, 0x3FFFF#18, fun _ v => .csrwRdlen v⟩,
  ⟨"csrr_RDH", 0x02810#18, 0x3FFFF#18, fun _ _ => .csrrRdh⟩,
  ⟨"csrw_RDH", 0x22810#18, 0x3FFFF#18, fun _ v => .csrwRdh v⟩,
  ⟨"csrr_RDT", 0x02818#18, 0x3FFFF#18, fun _ _ => .csrrRdt⟩,
  ⟨"csrw_RDT", 0x22818#18, 0x3FFFF#18, fun _ v => .csrwRdt v⟩]

/-- The rows of TCTL, TIPG and the TX ring registers. -/
def transmitRows : List Row := [
  ⟨"csrr_TCTL", 0x00400#18, 0x3FFFF#18, fun _ _ => .csrrTctl⟩,
  ⟨"csrw_TCTL", 0x20400#18, 0x3FFFF#18, fun _ v => .csrwTctl v⟩,
  ⟨"csrr_TIPG", 0x00410#18, 0x3FFFF#18, fun _ _ => .csrrTipg⟩,
  ⟨"csrw_TIPG", 0x20410#18, 0x3FFFF#18, fun _ v => .csrwTipg v⟩,
  ⟨"csrr_TDBAL", 0x03800#18, 0x3FFFF#18, fun _ _ => .csrrTdbal⟩,
  ⟨"csrw_TDBAL", 0x23800#18, 0x3FFFF#18, fun _ v => .csrwTdbal v⟩,
  ⟨"csrr_TDBAH", 0x03804#18, 0x3FFFF#18, fun _ _ => .csrrTdbah⟩,
  ⟨"csrw_TDBAH", 0x23804#18, 0x3FFFF#18, fun _ v => .csrwTdbah v⟩,
  ⟨"csrr_TDLEN", 0x03808#18, 0x3FFFF#18, fun _ _ => .csrrTdlen⟩,
  ⟨"csrw_TDLEN", 0x23808#18, 0x3FFFF#18, fun _ v => .csrwTdlen v⟩,
  ⟨"csrr_TDH", 0x03810#18, 0x3FFFF#18, fun _ _ => .csrrTdh⟩,
  ⟨"csrw_TDH", 0x23810#18, 0x3FFFF#18, fun _ v => .csrwTdh v⟩,
  ⟨"csrr_TDT", 0x03818#18, 0x3FFFF#18, fun _ _ => .csrrTdt⟩,
  ⟨"csrw_TDT", 0x23818#18, 0x3FFFF#18, fun _ v => .csrwTdt v⟩]

/-- The rows of the register arrays MTA[i], RAL[n], RAH[n]. -/
def arrayRows : List Row := [
  ⟨"csrr_MTA_i", 0x05200#18, 0x3FE03#18, fun k _ => .csrrMta (mtaIndex k)⟩,
  ⟨"csrw_MTA_i", 0x25200#18, 0x3FE03#18, fun k v => .csrwMta (mtaIndex k) v⟩,
  ⟨"csrr_RAL_n", 0x05400#18, 0x3FF87#18, fun k _ => .csrrRal (raIndex k)⟩,
  ⟨"csrw_RAL_n", 0x25400#18, 0x3FF87#18, fun k v => .csrwRal (raIndex k) v⟩,
  ⟨"csrr_RAH_n", 0x05404#18, 0x3FF87#18, fun k _ => .csrrRah (raIndex k)⟩,
  ⟨"csrw_RAH_n", 0x25404#18, 0x3FF87#18, fun k v => .csrwRah (raIndex k) v⟩]

/-- spec/opcode_table.json, 48 rows. -/
def opcodeTable : List Row := deviceRows ++ receiveRows ++ transmitRows ++ arrayRows

/-- R57: the first row (the only one) that matches a key. -/
def findRow : List Row → BitVec 18 → Option Row
  | [], _ => none
  | r :: rows, key => if key &&& r.mask = r.pattern then some r else findRow rows key

/-- R57: the transaction of a key and a data word; `none` for the key of no documented register. -/
def decodeKey (key : BitVec 18) (data : Word) : Option Instr :=
  (findRow opcodeTable key).map fun r => r.build key data

/-- A 32-bit word from its bytes, least significant first (log entry 7). -/
def wordOfBytes (b0 b1 b2 b3 : Byte) : Word := b3 ++ b2 ++ b1 ++ b0

/-- R56: the direction bit of a key, 1 = write. -/
def keyWrites (key : BitVec 18) : Bool := key.getLsbD 17

/-- The transaction of a key word and a data word, or why there is none. -/
def decodeWords (key data : Word) : Except DecodeError Instr :=
  if key.extractLsb' 18 14 ≠ 0#14 then .error .keyTooWide
  else if key.extractLsb' 0 2 ≠ 0#2 then .error .misaligned
  else
    match decodeKey (key.extractLsb' 0 18) data with
    | none => .error .undocumented
    | some i => .ok i

/-- Decode the image of a transaction at the head of a byte sequence and give the bytes after it: a key
word, and a data word when the key is a write's (log entry 7). -/
def decode : List Byte → Except DecodeError (Instr × List Byte)
  | b0 :: b1 :: b2 :: b3 :: rest =>
    let key := wordOfBytes b0 b1 b2 b3
    if keyWrites (key.extractLsb' 0 18) then
      match rest with
      | d0 :: d1 :: d2 :: d3 :: rest' =>
        match decodeWords key (wordOfBytes d0 d1 d2 d3) with
        | .ok i => .ok (i, rest')
        | .error e => .error e
      | _ => .error .truncated
    else
      match decodeWords key 0#32 with
      | .ok i => .ok (i, rest)
      | .error e => .error e
  | _ => .error .truncated

/-! ## The encoder -/

/-- R58: the byte offset of each register. -/
def Reg.offset : Reg → Nat
  | .ctrl => 0x00000
  | .status => 0x00008
  | .eecd => 0x00010
  | .eerd => 0x00014
  | .icr => 0x000C0
  | .ics => 0x000C8
  | .ims => 0x000D0
  | .imc => 0x000D8
  | .rctl => 0x00100
  | .tctl => 0x00400
  | .tipg => 0x00410
  | .rdbal => 0x02800
  | .rdbah => 0x02804
  | .rdlen => 0x02808
  | .rdh => 0x02810
  | .rdt => 0x02818
  | .tdbal => 0x03800
  | .tdbah => 0x03804
  | .tdlen => 0x03808
  | .tdh => 0x03810
  | .tdt => 0x03818
  | .mta i => 0x05200 + 4 * i.toNat
  | .ral n => 0x05400 + 8 * n.toNat
  | .rah n => 0x05404 + 8 * n.toNat

/-- The register a transaction accesses. -/
def Instr.reg : Instr → Reg
  | .csrrCtrl => .ctrl
  | .csrwCtrl _ => .ctrl
  | .csrrStatus => .status
  | .csrwStatus _ => .status
  | .csrrEecd => .eecd
  | .csrwEecd _ => .eecd
  | .csrrEerd => .eerd
  | .csrwEerd _ => .eerd
  | .csrrIcr => .icr
  | .csrwIcr _ => .icr
  | .csrrIcs => .ics
  | .csrwIcs _ => .ics
  | .csrrIms => .ims
  | .csrwIms _ => .ims
  | .csrrImc => .imc
  | .csrwImc _ => .imc
  | .csrrRctl => .rctl
  | .csrwRctl _ => .rctl
  | .csrrTctl => .tctl
  | .csrwTctl _ => .tctl
  | .csrrTipg => .tipg
  | .csrwTipg _ => .tipg
  | .csrrRdbal => .rdbal
  | .csrwRdbal _ => .rdbal
  | .csrrRdbah => .rdbah
  | .csrwRdbah _ => .rdbah
  | .csrrRdlen => .rdlen
  | .csrwRdlen _ => .rdlen
  | .csrrRdh => .rdh
  | .csrwRdh _ => .rdh
  | .csrrRdt => .rdt
  | .csrwRdt _ => .rdt
  | .csrrTdbal => .tdbal
  | .csrwTdbal _ => .tdbal
  | .csrrTdbah => .tdbah
  | .csrwTdbah _ => .tdbah
  | .csrrTdlen => .tdlen
  | .csrwTdlen _ => .tdlen
  | .csrrTdh => .tdh
  | .csrwTdh _ => .tdh
  | .csrrTdt => .tdt
  | .csrwTdt _ => .tdt
  | .csrrMta i => .mta i
  | .csrwMta i _ => .mta i
  | .csrrRal n => .ral n
  | .csrwRal n _ => .ral n
  | .csrrRah n => .rah n
  | .csrwRah n _ => .rah n

/-- The value a write carries; `none` for a read (R56). -/
def Instr.data : Instr → Option Word
  | .csrrCtrl => none
  | .csrwCtrl v => some v
  | .csrrStatus => none
  | .csrwStatus v => some v
  | .csrrEecd => none
  | .csrwEecd v => some v
  | .csrrEerd => none
  | .csrwEerd v => some v
  | .csrrIcr => none
  | .csrwIcr v => some v
  | .csrrIcs => none
  | .csrwIcs v => some v
  | .csrrIms => none
  | .csrwIms v => some v
  | .csrrImc => none
  | .csrwImc v => some v
  | .csrrRctl => none
  | .csrwRctl v => some v
  | .csrrTctl => none
  | .csrwTctl v => some v
  | .csrrTipg => none
  | .csrwTipg v => some v
  | .csrrRdbal => none
  | .csrwRdbal v => some v
  | .csrrRdbah => none
  | .csrwRdbah v => some v
  | .csrrRdlen => none
  | .csrwRdlen v => some v
  | .csrrRdh => none
  | .csrwRdh v => some v
  | .csrrRdt => none
  | .csrwRdt v => some v
  | .csrrTdbal => none
  | .csrwTdbal v => some v
  | .csrrTdbah => none
  | .csrwTdbah v => some v
  | .csrrTdlen => none
  | .csrwTdlen v => some v
  | .csrrTdh => none
  | .csrwTdh v => some v
  | .csrrTdt => none
  | .csrwTdt v => some v
  | .csrrMta _ => none
  | .csrwMta _ v => some v
  | .csrrRal _ => none
  | .csrwRal _ v => some v
  | .csrrRah _ => none
  | .csrwRah _ v => some v

/-- R58: "read key = offset; write key = offset + 0x20000". -/
def Instr.key (i : Instr) : BitVec 18 :=
  match i.data with
  | none => BitVec.ofNat 18 i.reg.offset
  | some _ => BitVec.ofNat 18 (i.reg.offset + 0x20000)

/-- The bytes of a word, least significant first (log entry 7). -/
def bytesOfWord (w : Word) : List Byte :=
  [w.extractLsb' 0 8, w.extractLsb' 8 8, w.extractLsb' 16 8, w.extractLsb' 24 8]

/-- The image of a transaction: its key word, then a write's data word (log entry 7). -/
def encode (i : Instr) : List Byte :=
  bytesOfWord (i.key.setWidth 32) ++
    match i.data with
    | none => []
    | some v => bytesOfWord v

/-! ## The host's view of a table word -/

/-- The first `n` bytes of a number, least significant first. -/
def bytesOfNat : Nat → Nat → List Byte
  | 0, _ => []
  | n + 1, v => BitVec.ofNat 8 v :: bytesOfNat n (v / 256)

/-- The transaction the decoder reads from a table word of `nbits` bits (bits above them 0), laid out as a
key word and a data word. -/
def decodeTableWord (nbits w : Nat) : Option Instr :=
  match decode (bytesOfNat 8 (w % 2 ^ nbits)) with
  | .ok (i, _) => some i
  | .error _ => none

/-- R56: the transaction record a table word stands for; a key bit above 17 is an offset bit no
admitted offset has. -/
def transactionOfTableWord (nbits w : Nat) : Transaction :=
  let v := w % 2 ^ nbits
  let key := v % 2 ^ 32
  let write := key / 2 ^ 17 % 2 == 1
  { write := write
    offset := key % 2 ^ 17 + key / 2 ^ 18 * 2 ^ 17
    width := 4
    value := if write then BitVec.ofNat 32 (v / 2 ^ 32) else 0#32 }

end Sys2Proof
end

