-- ==== Sys2Proof/Machine/State.lean ====
section
/-! DEFINITION. The state of the machine as plain data (10_state.md), the model faults of R163 and the
state after power-on reset (R176, R178). -/

namespace Sys2Proof.Machine

/-! ## Registers -/

/-- CTRL, the ST fields of R17. RST is no cell: it reads 0 and a write of 1 sets `inReset` (R74). -/
structure Ctrl where
  fd : RegCell 1
  lrst : RegCell 1
  asde : RegCell 1
  slu : RegCell 1
  ilos : RegCell 1
  speed : RegCell 2
  frcspd : RegCell 1
  frcdplx : RegCell 1
  sdp0Data : RegCell 1
  sdp1Data : RegCell 1
  advd3wuc : RegCell 1
  enPhyPwrMgmt : RegCell 1
  sdp0Iodir : RegCell 1
  sdp1Iodir : RegCell 1
  rfce : RegCell 1
  tfce : RegCell 1
  vme : RegCell 1
  phyRst : RegCell 1
deriving DecidableEq, Repr

/-- RCTL, the RW and ST fields of R23; every one resets to 0. -/
structure Rctl where
  en : Bool
  sbp : Bool
  upe : Bool
  mpe : Bool
  lpe : Bool
  lbm : BitVec 2
  rdmts : BitVec 2
  mo : BitVec 2
  bam : Bool
  bsize : BitVec 2
  vfe : Bool
  cfien : Bool
  cfi : Bool
  dpf : Bool
  pmcf : Bool
  bsex : Bool
  secrc : Bool
deriving DecidableEq, Repr

/-- TCTL, the fields of R24. -/
structure Tctl where
  en : Bool
  psp : Bool
  ct : RegCell 8
  cold : RegCell 10
  swxoff : Bool
  rtlc : RegCell 1
deriving DecidableEq, Repr

/-- TIPG, the fields of R25. -/
structure Tipg where
  ipgt : RegCell 10
  ipgr1 : RegCell 10
  ipgr2 : RegCell 10
deriving DecidableEq, Repr

/-- The registers of one ring (R26): xDBAL[31:4], xDBAH, xDLEN[19:7], xDH[15:0], xDT[15:0]. -/
structure RingRegs where
  dbal : RegCell 28
  dbah : RegCell 32
  len : BitVec 13
  head : BitVec 16
  tail : BitVec 16
deriving DecidableEq, Repr

/-- A receive-address pair (R27): RAL[n], and the fields of RAH[n]. -/
structure RaEntry where
  ral : RegCell 32
  addrHi : RegCell 16
  asel : RegCell 2
  av : RegCell 1
deriving DecidableEq, Repr

/-- Every stored register field of the register window (R17 to R28). -/
structure Csrs where
  ctrl : Ctrl
  /-- EECD.EE_REQ (R19) -/
  eeReq : Bool
  /-- EERD.DONE (R20) -/
  eerdDone : Bool
  /-- EERD.ADDR (R20) -/
  eerdAddr : BitVec 8
  /-- EERD.DATA (R20) -/
  eerdData : BitVec 16
  /-- ICR bits 16:0 (R21) -/
  icr : BitVec 17
  /-- the interrupt mask that IMS reads (R22, R29) -/
  imask : BitVec 17
  rctl : Rctl
  tctl : Tctl
  tipg : Tipg
  /-- RDBAL, RDBAH, RDLEN, RDH, RDT -/
  rx : RingRegs
  /-- TDBAL, TDBAH, TDLEN, TDH, TDT -/
  tx : RingRegs
  /-- RAL[n], RAH[n] -/
  ra : Vector RaEntry 16
  /-- MTA[i] -/
  mta : Vector (RegCell 32) 128
deriving DecidableEq, Repr

/-! ## Hidden state, memory, link -/

/-- R29: a TX entry, a descriptor fetched by TXF and not yet completed by TXC. -/
structure TxEntry where
  slot : BitVec 16
  daddr : BitVec 64
  baddr : BitVec 64
  frame : Frame
  rs : Bool
  ifcs : Bool
  staHi : BitVec 4
deriving DecidableEq, Repr

/-- R30: a record of the link output sequence. -/
structure WireFrame where
  bytes : Frame
  fcsInserted : Bool
deriving DecidableEq, Repr

/-- Host physical memory (R30, R36): the listed bytes, addresses strictly rising, no byte equal to what an
unlisted address reads as (`Memory.unlisted`); see `Memory.wf` in Ops. -/
abbrev Memory := List Host.Cell

/-! ## Agents, turns, host tasks -/

/-- The seven agents of R7. -/
inductive Agent where
  | host
  | txf
  | txc
  | wireRx
  | rxd
  | eep
  | rst
deriving DecidableEq, Repr

/-- One turn of the schedule: which agent moves next, for HOST which task, for WIRE_RX the frame the link
offers (R131: a free input). (Log entry 5.) -/
inductive Turn where
  | host (task : Nat)
  | txf
  | txc
  | wireRx (p : Frame)
  | rxd
  | eep
  | rst
deriving DecidableEq, Repr

/-- How a host task stands: it has forms to perform, or it ended by `halt` (R161), `fatal` (R162) or
`return v` (R152). These are host outcomes, not model faults (R144). -/
inductive TaskStatus where
  | running
  | halted
  | fatal
  | returned (v : Int)
deriving DecidableEq, Repr

/-- A host task (R7, R145): its program, the index of its next form, its temporaries (R68; one never
assigned reads 0, log entry 9), and the bytes a misaligned access has moved so far (R44). -/
structure Task where
  code : List Form
  pos : Nat
  temps : List (Nat × Int)
  moved : List Byte
  status : TaskStatus
deriving DecidableEq, Repr

/-! ## Faults and refusals -/

/-- The two rings. -/
inductive Ring where
  | tx
  | rx
deriving DecidableEq, Repr

/-- The registers a FilterUndefined names (R130). -/
inductive FilterReg where
  | rah (n : Nat)
  | ra (n : Nat)
  | mta (k : Nat)
deriving DecidableEq, Repr

/-- The model faults of R163, with the info the table records: the spec's own stops, each raised where the rule
cited says so. All are terminal (R164), and all are SAFE: the run ends as the spec says, so nothing can be
proved of what follows. -/
inductive Fault where
  /-- code 1, HOST: an access of width other than 4 (R69). Safe. -/
  | csrBadWidth (offset width : Nat)
  /-- code 2, HOST: an offset at or above REG_SIZE (R69). Safe. -/
  | csrOutOfWindow (offset : Nat)
  /-- code 3, HOST: an offset not a multiple of 4 (R69). Safe. -/
  | csrMisaligned (offset : Nat)
  /-- code 4, HOST: an aligned offset in the window that R58 does not list (R69). Safe. -/
  | csrUndocumented (offset : Nat)
  /-- code 5, HOST: a read that would return a `⊥` field, the spec's reset value of R178 (R11, R70, and the
  read rules R73, R92, R94, R96, R98, R113, R115, R123, R125, R127). Safe. -/
  | csrReadUndefined (offset : Nat)
  /-- code 6, HOST: a read of a write-only register (R79, R83). Safe. -/
  | csrReadWriteOnly (offset : Nat)
  /-- code 7, HOST: a write of a refused field value (R74, R93, R112, R126). Safe. -/
  | csrValueUnsupported (offset : Nat) (value : Word)
  /-- code 8, HOST: a write of ring set-up state while the ring is enabled (R97 to R103, R112 to R120). Safe. -/
  | csrWriteWhileEnabled (offset : Nat)
  /-- code 9, HOST: a TX tail at or above N_t, or nonzero with N_t = 0 (R105). Safe. -/
  | txTailOutOfRange (value : Nat)
  /-- code 10, HOST: a TX tail write that shrinks the published window (R105). Safe. -/
  | txTailRetract (old new : Nat)
  /-- code 11, HOST: a nonzero TX head at or above N_t (R103). Safe. -/
  | txHeadOutOfRange (value : Nat)
  /-- code 12, HOST: as code 9 for the RX ring (R122). Safe. -/
  | rxTailOutOfRange (value : Nat)
  /-- code 13, HOST: as code 10 for the RX ring (R122). Safe. -/
  | rxTailRetract (old new : Nat)
  /-- code 14, HOST: as code 11 for the RX ring (R120). Safe. -/
  | rxHeadOutOfRange (value : Nat)
  /-- code 15, HOST: a store to a hardware-owned byte (R48, R158). Safe. -/
  | ownershipViolation (addr slot : Nat)
  /-- code 16, TXF, TXC or RXD: a device access beyond MEM_BYTES (R37). Safe. -/
  | dmaOutOfRange (agent : Agent) (addr len : Nat)
  /-- code 17, TXF or RXD: a ring base still `⊥` when the engine needs it (R11, R106, R132). Safe. -/
  | dmaRegUndefined (ring : Ring)
  /-- code 18, TXF: a TX CMD byte outside R62 (R106). Safe. -/
  | txDescUnsupported (slot : Nat) (cmd : Byte)
  /-- code 19, TXF: a TX length of 0 or above TX_DESC_MAX_LEN (R106). Safe. -/
  | txLengthInvalid (slot len : Nat)
  /-- code 20, WIRE_RX: the filter needs a `⊥` field (R130). Safe. -/
  | filterUndefined (reg : FilterReg)
deriving DecidableEq, Repr

/-- Why a step has no meaning. -/
inductive Refusal where
  /-- exec's arm of an instruction that has no meaning yet; no arm of this model raises it. Safe. -/
  | notModelled (mnemonic : String)
  /-- a host load or store whose bytes are not all in host memory: "not a program" (R157). Raised by the
  host forms' step. Safe. -/
  | hostAddressBeyondMemory (a : Int)
  /-- a taken branch to a label the program lacks: "not a program" (R152). Raised by the host forms'
  step. Safe. -/
  | undefinedLabel (l : Nat)
deriving DecidableEq, Repr

/-! ## The state -/

/-- Everything the spec gives the machine, and the model's own `agenda`, `drawn` and `busData`
(INVENTORY.md, section State). -/
structure State where
  /-- the parameters of R8; no step changes them -/
  params : Params
  /-- the register fields of R17 to R28 -/
  regs : Csrs
  /-- R29: a software reset has started and not completed -/
  inReset : Bool
  /-- R29: an EEPROM read has started and not completed -/
  eerdPending : Bool
  /-- R29: word address of the pending EEPROM read -/
  eerdReqAddr : BitVec 8
  /-- R29: descriptors fetched by TXF and not yet completed by TXC, oldest first -/
  txInflight : List TxEntry
  /-- R29: frames accepted by the filter and not yet written to memory, oldest first -/
  rxFifo : List Frame
  /-- R30: host physical memory -/
  mem : Memory
  /-- R30: the link output sequence, oldest first -/
  wireOut : List WireFrame
  /-- R30, R164: the fault record -/
  faults : List Fault
  /-- the model's own: how many draws have been made (log entry 2) -/
  drawn : Nat
  /-- the model's own: the value the last CSR read returned (R56; log entry 8) -/
  busData : Word
  /-- the host's tasks (R7, R145) -/
  tasks : List Task
  /-- the model's own: the turns to come (log entry 5) -/
  agenda : List Turn
deriving DecidableEq, Repr

/-- The outcome of a step. -/
abbrev Result := Host.Outcome State Fault Refusal

/-! ## Reset values -/

/-- R178: every ST field of CTRL is `⊥`. -/
def Ctrl.reset : Ctrl :=
  ⟨none, none, none, none, none, none, none, none, none, none, none, none, none, none, none, none, none, none⟩

/-- R178: every stored field of RCTL is 0. -/
def Rctl.reset : Rctl :=
  ⟨false, false, false, false, false, 0, 0, 0, false, 0, false, false, false, false, false, false, false⟩

/-- R178: TCTL.EN, PSP and SWXOFF are 0; CT, COLD and RTLC are `⊥`. -/
def Tctl.reset : Tctl := ⟨false, false, none, none, false, none⟩

/-- R178: TIPG's fields are `⊥`. -/
def Tipg.reset : Tipg := ⟨none, none, none⟩

/-- R178: a ring's base is `⊥`, its length, head and tail are 0. -/
def RingRegs.reset : RingRegs := ⟨none, none, 0, 0, 0⟩

/-- R178: RAH[0].AV is `⊥`, RAH[n].AV is 0 for n = 1..15; every other field of the pairs is `⊥`. -/
def raReset : Vector RaEntry 16 :=
  (Vector.replicate 16 ⟨none, none, none, some 0#1⟩).set 0 ⟨none, none, none, none⟩

/-- R178: the reset value of every register field. -/
def Csrs.reset : Csrs where
  ctrl := Ctrl.reset
  eeReq := false
  eerdDone := false
  eerdAddr := 0
  eerdData := 0
  icr := 0
  imask := 0
  rctl := Rctl.reset
  tctl := Tctl.reset
  tipg := Tipg.reset
  rx := RingRegs.reset
  tx := RingRegs.reset
  ra := raReset
  mta := Vector.replicate 128 none

/-- R176: power-on reset, with given parameters and given contents of host memory (both "a model
parameter"). -/
def State.powerOn (p : Params) (m : Memory) : State where
  params := p
  regs := Csrs.reset
  inReset := false
  eerdPending := false
  eerdReqAddr := 0
  txInflight := []
  rxFifo := []
  mem := m
  wireOut := []
  faults := []
  drawn := 0
  busData := 0
  tasks := []
  agenda := []

/-- The machine right after power-on reset (R176), with the example parameters (log entry 3) and memory
with nothing listed (log entry 4). -/
def State.reset : State := State.powerOn Params.example []

end Sys2Proof.Machine
end

