-- ==== Sys2Proof/Machine/Operands.lean ====
section
/-! DEFINITION. The operand forms: how register values are assembled from fields and split into them
(R59), the class X masks of each register (R16), ring arithmetic (R147 to R149), the RX buffer size
(R129), and the host notation's expressions (R68, R151). -/

namespace Sys2Proof.Machine

/-! ## Placing fields (R59) -/

/-- R59: `zext_32(f) << lo`. -/
def place {w : Nat} (lo : Nat) (f : BitVec w) : Word := f.setWidth 32 <<< lo

/-- A one-bit field at bit `lo`. -/
def placeBit (lo : Nat) (b : Bool) : Word := place lo (BitVec.ofBool b)

/-- A field cell at bit `lo`; `⊥` stays `⊥`. -/
def placeCell {w : Nat} (lo : Nat) (c : RegCell w) : RegCell 32 := c.map (place lo)

/-- R70: the OR of a register's placed fields, `⊥` as soon as one of them is. -/
def joinCells : List (RegCell 32) → RegCell 32
  | [] => some 0#32
  | c :: cs =>
    match c, joinCells cs with
    | some a, some b => some (a ||| b)
    | _, _ => none

/-- R59: the field `v[lo + w - 1 : lo]`. -/
def field (v : Word) (lo w : Nat) : BitVec w := v.extractLsb' lo w

/-! ## CTRL (R17) -/

/-- R73: the ST fields of CTRL at their bits, RST reading 0. -/
def Ctrl.stored (c : Ctrl) : RegCell 32 :=
  joinCells [
    placeCell 0 c.fd, placeCell 3 c.lrst, placeCell 5 c.asde, placeCell 6 c.slu, placeCell 7 c.ilos,
    placeCell 8 c.speed, placeCell 11 c.frcspd, placeCell 12 c.frcdplx, placeCell 18 c.sdp0Data,
    placeCell 19 c.sdp1Data, placeCell 20 c.advd3wuc, placeCell 21 c.enPhyPwrMgmt,
    placeCell 22 c.sdp0Iodir, placeCell 23 c.sdp1Iodir, placeCell 27 c.rfce, placeCell 28 c.tfce,
    placeCell 30 c.vme, placeCell 31 c.phyRst]

/-- R74: the ST fields of a written value. -/
def Ctrl.ofWord (v : Word) : Ctrl where
  fd := some (field v 0 1)
  lrst := some (field v 3 1)
  asde := some (field v 5 1)
  slu := some (field v 6 1)
  ilos := some (field v 7 1)
  speed := some (field v 8 2)
  frcspd := some (field v 11 1)
  frcdplx := some (field v 12 1)
  sdp0Data := some (field v 18 1)
  sdp1Data := some (field v 19 1)
  advd3wuc := some (field v 20 1)
  enPhyPwrMgmt := some (field v 21 1)
  sdp0Iodir := some (field v 22 1)
  sdp1Iodir := some (field v 23 1)
  rfce := some (field v 27 1)
  tfce := some (field v 28 1)
  vme := some (field v 30 1)
  phyRst := some (field v 31 1)

/-- R17: the class X bits of CTRL, 2:1, 4, 10, 17:13, 25:24, 29. -/
def ctrlX : Word := 0x2303E416#32

/-- R17, R66: the bits whose value 1 CTRL refuses: LRST, RFCE, TFCE, VME, PHY_RST. -/
def ctrlRefused (v : Word) : Bool :=
  v.getLsbD 3 || v.getLsbD 27 || v.getLsbD 28 || v.getLsbD 30 || v.getLsbD 31

/-! ## RCTL (R23) -/

/-- R111: the stored fields of RCTL at their bits. -/
def Rctl.stored (r : Rctl) : Word :=
  placeBit 1 r.en ||| placeBit 2 r.sbp ||| placeBit 3 r.upe ||| placeBit 4 r.mpe ||| placeBit 5 r.lpe |||
  place 6 r.lbm ||| place 8 r.rdmts ||| place 12 r.mo ||| placeBit 15 r.bam ||| place 16 r.bsize |||
  placeBit 18 r.vfe ||| placeBit 19 r.cfien ||| placeBit 20 r.cfi ||| placeBit 22 r.dpf |||
  placeBit 23 r.pmcf ||| placeBit 25 r.bsex ||| placeBit 26 r.secrc

/-- R112: the stored fields of a written value. -/
def Rctl.ofWord (v : Word) : Rctl where
  en := v.getLsbD 1
  sbp := v.getLsbD 2
  upe := v.getLsbD 3
  mpe := v.getLsbD 4
  lpe := v.getLsbD 5
  lbm := field v 6 2
  rdmts := field v 8 2
  mo := field v 12 2
  bam := v.getLsbD 15
  bsize := field v 16 2
  vfe := v.getLsbD 18
  cfien := v.getLsbD 19
  cfi := v.getLsbD 20
  dpf := v.getLsbD 22
  pmcf := v.getLsbD 23
  bsex := v.getLsbD 25
  secrc := v.getLsbD 26

/-- R111: the class X bits of RCTL, 0, 11:10, 14, 21, 24, 31:27. (Log entry 17.) -/
def rctlX : Word := 0xF9204C01#32

/-- R112: the field values RCTL refuses: LBM not 00b, RDMTS 11b, VFE, CFIEN, BSEX with BSIZE 00b. -/
def rctlRefused (v : Word) : Bool :=
  field v 6 2 != 0#2 || field v 8 2 == 3#2 || v.getLsbD 18 || v.getLsbD 19 ||
    (v.getLsbD 25 && field v 16 2 == 0#2)

/-- R129: the RX buffer size in bytes; none for the refused code BSEX = 1, BSIZE = 00b, which no write
stores (log entry 16). -/
def Rctl.bufSize (r : Rctl) : Option Nat :=
  match r.bsex, r.bsize.toNat with
  | false, 0 => some 2048
  | false, 1 => some 1024
  | false, 2 => some 512
  | false, _ => some 256
  | true, 0 => none
  | true, 1 => some 16384
  | true, 2 => some 8192
  | true, _ => some 4096

/-! ## TCTL and TIPG (R24, R25) -/

/-- R92: the stored fields of TCTL at their bits. -/
def Tctl.stored (t : Tctl) : RegCell 32 :=
  joinCells [
    some (placeBit 1 t.en), some (placeBit 3 t.psp), placeCell 4 t.ct, placeCell 12 t.cold,
    some (placeBit 22 t.swxoff), placeCell 24 t.rtlc]

/-- R93: the stored fields of a written value; SWXOFF is stored 0. -/
def Tctl.ofWord (v : Word) : Tctl where
  en := v.getLsbD 1
  psp := v.getLsbD 3
  ct := some (field v 4 8)
  cold := some (field v 12 10)
  swxoff := false
  rtlc := some (field v 24 1)

/-- R24: the class X bits of TCTL, 0, 2, 23, 31:25. (Log entry 17.) -/
def tctlX : Word := 0xFE800005#32

/-- R94: the stored fields of TIPG at their bits. -/
def Tipg.stored (t : Tipg) : RegCell 32 :=
  joinCells [placeCell 0 t.ipgt, placeCell 10 t.ipgr1, placeCell 20 t.ipgr2]

/-- R95: the stored fields of a written value. -/
def Tipg.ofWord (v : Word) : Tipg where
  ipgt := some (field v 0 10)
  ipgr1 := some (field v 10 10)
  ipgr2 := some (field v 20 10)

/-- R25: the class X bits of TIPG, 31:30. -/
def tipgX : Word := 0xC0000000#32

/-! ## EECD, EERD, ICR, IMS (R19 to R22) -/

/-- R85: EE_REQ at bit 6, EE_GNT equal to it at bit 7, EE_PRES 1 at bit 8. -/
def eecdStored (req : Bool) : Word := placeBit 6 req ||| placeBit 7 req ||| placeBit 8 true

/-- R19: every bit of EECD but 8:6 is class X. -/
def eecdX : Word := 0xFFFFFE3F#32

/-- R87: DONE, ADDR and DATA at their bits. -/
def eerdStored (r : Csrs) : Word := placeBit 4 r.eerdDone ||| place 8 r.eerdAddr ||| place 16 r.eerdData

/-- R87: START and the X bits of EERD read as draws, and DATA too while a read is pending. -/
def eerdX (pending : Bool) : Word := if pending then 0xFFFF00EF#32 else 0x000000EF#32

/-- R21, R22: bits 31:17 of ICR and IMS are class X. -/
def causeX : Word := 0xFFFE0000#32

/-! ## RAH (R27) -/

/-- R125: the stored fields of RAH[n] at their bits. -/
def RaEntry.storedHi (e : RaEntry) : RegCell 32 :=
  joinCells [placeCell 0 e.addrHi, placeCell 16 e.asel, placeCell 31 e.av]

/-- R126: a pair whose RAH was written; ASEL is stored 00b. -/
def RaEntry.withHi (e : RaEntry) (v : Word) : RaEntry :=
  { e with addrHi := some (field v 0 16), asel := some 0#2, av := some (field v 31 1) }

/-- R27: bits 30:18 of RAH are class X. -/
def rahX : Word := 0x7FFC0000#32

/-- R27: the address a pair matches, byte 0 first: RAL[7:0], [15:8], [23:16], [31:24], RAH[7:0], [15:8]. -/
def entryBytes (lo : BitVec 32) (hi : BitVec 16) : List Byte :=
  [lo.extractLsb' 0 8, lo.extractLsb' 8 8, lo.extractLsb' 16 8, lo.extractLsb' 24 8,
    hi.extractLsb' 0 8, hi.extractLsb' 8 8]

/-- RAL[n] and RAH[n] of the table. -/
def Csrs.raAt (r : Csrs) (n : BitVec 4) : RaEntry := r.ra.get n.toFin

/-- The table with pair `n` replaced. -/
def Csrs.setRa (r : Csrs) (n : BitVec 4) (e : RaEntry) : Csrs :=
  { r with ra := r.ra.set n.toNat e n.isLt }

/-- MTA[i]. -/
def Csrs.mtaAt (r : Csrs) (i : BitVec 7) : RegCell 32 := r.mta.get i.toFin

/-- The multicast table with MTA[i] written. -/
def Csrs.setMta (r : Csrs) (i : BitVec 7) (v : Word) : Csrs :=
  { r with mta := r.mta.set i.toNat (some v) i.isLt }

/-! ## Ring registers (R26) -/

/-- R96, R113: xDBAL[31:4] at its bits. -/
def RingRegs.balStored (r : RingRegs) : RegCell 32 := placeCell 4 r.dbal

/-- R26: bits 3:0 of xDBAL are class X. -/
def balX : Word := 0x0000000F#32

/-- R100, R117: LEN at bits 19:7. -/
def RingRegs.lenStored (r : RingRegs) : Word := place 7 r.len

/-- R26: bits 6:0 and 31:20 of xDLEN are class X. -/
def lenX : Word := 0xFFF0007F#32

/-- R26: bits 31:16 of xDH and xDT are class X. -/
def indexX : Word := 0xFFFF0000#32

/-- R26, R149: the ring size in descriptors, `LEN * 8`. -/
def RingRegs.slots (r : RingRegs) : Nat := r.len.toNat * 8

/-- R26, R148: the ring base `{xDBAH, xDBAL[31:4], 0000b}` as an unbounded integer; `⊥` when either half is. -/
def RingRegs.base (r : RingRegs) : Option Nat :=
  match r.dbah, r.dbal with
  | some hi, some lo => some (hi.toNat * 2 ^ 32 + lo.toNat * 16)
  | _, _ => none

/-- R10, R147: `(t - h) mod n` on mathematical integers, in `0 .. n-1` for `n > 0`. -/
def ringDist (t h n : Nat) : Nat := (((t : Int) - (h : Int)) % (n : Int)).toNat

/-- R31, R32: how many slots the hardware window `[head, tail)` holds; 0 when the ring has none. -/
def RingRegs.owned (r : RingRegs) : Nat :=
  if r.slots = 0 then 0 else ringDist r.tail.toNat r.head.toNat r.slots

/-- R31, R32: the slots of the hardware window, head first. -/
def RingRegs.window (r : RingRegs) : List Nat :=
  (List.range r.owned).map fun j => (r.head.toNat + j) % r.slots

/-- R105, R122: the fault of a tail write of `t`, if any: out of range, else a retraction. -/
def RingRegs.tailFault (r : RingRegs) (t : Nat) (outOfRange : Nat → Fault) (retract : Nat → Nat → Fault) :
    Option Fault :=
  if r.slots = 0 then
    if t ≠ 0 then some (outOfRange t) else none
  else if r.slots ≤ t then some (outOfRange t)
  else if ringDist t r.head.toNat r.slots < ringDist r.tail.toNat r.head.toNat r.slots then
    some (retract r.tail.toNat t)
  else none

/-- R103, R120: a head write of `h` is out of range when it is not 0 and at or above the ring size. -/
def RingRegs.headOutOfRange (r : RingRegs) (h : Nat) : Bool := h != 0 && decide (r.slots ≤ h)

/-- R106, R132: the head and tail indices lie in the ring and the ring has slots (D51). -/
def RingRegs.usable (r : RingRegs) : Bool :=
  decide (0 < r.slots) && decide (r.head.toNat < r.slots) && decide (r.tail.toNat < r.slots)

/-- R147: the head advanced by `k` slots, `(head + k) mod N`. -/
def RingRegs.advance (r : RingRegs) (k : Nat) : RingRegs :=
  { r with head := BitVec.ofNat 16 ((r.head.toNat + k) % r.slots) }

/-- R153: a descriptor is at `ring base + 16 * index`. -/
def descAddr (base slot : Nat) : Nat := base + 16 * slot

/-! ## Host expressions (R68, R151) -/

/-- Bitwise AND of unbounded integers in two's complement. -/
def intAnd : Int → Int → Int
  | .ofNat a, .ofNat b => .ofNat (a &&& b)
  | .ofNat a, .negSucc b => .ofNat (a - (a &&& b))
  | .negSucc a, .ofNat b => .ofNat (b - (b &&& a))
  | .negSucc a, .negSucc b => .negSucc (a ||| b)

/-- Bitwise NOT of an unbounded integer. -/
def intNot (a : Int) : Int := -a - 1

/-- Bitwise OR of unbounded integers, by De Morgan. -/
def intOr (a b : Int) : Int := intNot (intAnd (intNot a) (intNot b))

/-- A temporary's value; one never assigned reads 0 (log entry 9). -/
def tempValue : List (Nat × Int) → Nat → Int
  | [], _ => 0
  | (k, v) :: rest, t => if k = t then v else tempValue rest t

/-- The temporaries after `%t <- v`. -/
def setTemp (temps : List (Nat × Int)) (t : Nat) (v : Int) : List (Nat × Int) :=
  (t, v) :: temps.filter fun p => p.1 != t

/-- R151: the value of an expression, an unbounded integer. -/
def evalExpr (temps : List (Nat × Int)) : Expr → Int
  | .lit v => v
  | .temp t => tempValue temps t
  | .add a b => evalExpr temps a + evalExpr temps b
  | .sub a b => evalExpr temps a - evalExpr temps b
  | .mul a b => evalExpr temps a * evalExpr temps b
  | .mod a b => evalExpr temps a % evalExpr temps b
  | .band a b => intAnd (evalExpr temps a) (evalExpr temps b)
  | .bor a b => intOr (evalExpr temps a) (evalExpr temps b)
  | .bnot a => intNot (evalExpr temps a)
  | .shl a k => evalExpr temps a * 2 ^ k
  | .slice a hi lo => evalExpr temps a / 2 ^ lo % 2 ^ (hi - lo + 1)
  | .le a b => if evalExpr temps a ≤ evalExpr temps b then 1 else 0

/-- R44: the bytes of a host access. -/
def widthBytes : Width → Nat
  | .byte => 1
  | .half => 2
  | .word => 4

end Sys2Proof.Machine
end

