-- ==== Sys2Proof/Machine/Ops.lean ====
section
/-! DEFINITION. The named operations over memory and registers: host memory bytes (R41), the DMA range
check (R37), draws (R11), the result of a CSR read (R70), descriptors (R61, R64), hardware-owned bytes
(R31, R32), and the fault record (R164), the model's one way of taking a fault. -/

namespace Sys2Proof.Machine

/-! ## Host memory -/

/-- What a byte of host memory that nothing has written reads as. The spec leaves the contents after
power-on to the model (R176). DESIGN CHOICE, unsafe: 0 (log entry 4). -/
def Memory.unlisted (_a : Nat) : Byte := 0#8

/-- The entries lie at rising addresses from `lo` on, and none equals what an unlisted address reads as. -/
def Memory.wfFrom : Nat → Memory → Bool
  | _, [] => true
  | lo, (a, v) :: rest => decide (lo ≤ a) && (v != Memory.unlisted a) && Memory.wfFrom (a + 1) rest

/-- The canonical form of memory. -/
def Memory.wf (m : Memory) : Bool := Memory.wfFrom 0 m

/-- Every listed address lies below `n`. -/
abbrev Memory.below (n : Nat) (m : Memory) : Prop := ∀ c ∈ m, c.1 < n

/-- The byte at an address. -/
def Memory.read : Memory → Nat → Byte
  | [], a => Memory.unlisted a
  | (k, v) :: rest, a => if k = a then v else Memory.read rest a

/-- The memory without an entry for `a`. -/
def Memory.erase : Memory → Nat → Memory
  | [], _ => []
  | (k, v) :: rest, a => if k = a then rest else (k, v) :: Memory.erase rest a

/-- The memory with the entry `(a, v)`, in its place by address. -/
def Memory.insert : Memory → Nat → Byte → Memory
  | [], a, v => [(a, v)]
  | (k, u) :: rest, a, v =>
    if a < k then (a, v) :: (k, u) :: rest
    else if a = k then (a, v) :: rest
    else (k, u) :: Memory.insert rest a v

/-- A byte written: the value an unlisted address reads as removes the entry. -/
def Memory.write (m : Memory) (a : Nat) (v : Byte) : Memory :=
  if v = Memory.unlisted a then Memory.erase m a else Memory.insert m a v

/-- `MemRead(a, n)` (R12): the `n` bytes from `a` on, ascending. -/
def Memory.readBytes (m : Memory) : Nat → Nat → List Byte
  | _, 0 => []
  | a, n + 1 => Memory.read m a :: Memory.readBytes m (a + 1) n

/-- `MemWrite` (R12): the bytes written from `a` on, ascending. -/
def Memory.writeBytes : Memory → Nat → List Byte → Memory
  | m, _, [] => m
  | m, a, v :: vs => Memory.writeBytes (Memory.write m a v) (a + 1) vs

/-- R41: the integer of a byte sequence, least significant byte first. -/
def leNat : List Byte → Nat
  | [] => 0
  | b :: bs => b.toNat + 256 * leNat bs

/-- R12, R41: `MemRead(a, n)` as an integer. -/
def Memory.readLE (m : Memory) (a n : Nat) : Nat := leNat (Memory.readBytes m a n)

/-- R37: `a + n <= MEM_BYTES` on unbounded integers; an access of 0 bytes always succeeds. -/
def dmaInRange (s : State) (a n : Nat) : Bool := n == 0 || decide (a + n ≤ s.params.memBytes)

/-! ## Draws -/

/-- `draw_8()` made `n` times (R12), from the `k`-th draw on. -/
def drawBytes (k : Nat) : Nat → List Byte
  | 0 => []
  | n + 1 => (Config.draw k).setWidth 8 :: drawBytes (k + 1) n

/-! ## The result of a CSR read (R70) -/

/-- A read that returns exactly `v`. -/
def State.returnValue (s : State) (v : Word) : State := { s with busData := v }

/-- A read that returns the stored bits `v` with a draw in the class X bits of `x`. -/
def State.returnDrawn (s : State) (v x : Word) : State :=
  { s with busData := (v &&& ~~~x) ||| (Config.draw s.drawn &&& x), drawn := s.drawn + 1 }

/-- R70: a read of stored cells: `CsrReadUndefined` when one is `⊥`, else the value with its X bits drawn. -/
def readCells (s : State) (offset : Nat) (c : RegCell 32) (x : Word) : Result :=
  match c with
  | none => .fault (.csrReadUndefined offset)
  | some v => .next (s.returnDrawn v x)

/-- R70: as `readCells`, for a register without class X bits. -/
def readCell (s : State) (offset : Nat) (c : RegCell 32) : Result :=
  match c with
  | none => .fault (.csrReadUndefined offset)
  | some v => .next (s.returnValue v)

/-! ## Descriptors -/

/-- A TX descriptor as it stands in memory (R61). -/
structure TxDesc where
  addr : BitVec 64
  len : BitVec 16
  cso : Byte
  cmd : Byte
  sta : Byte
  css : Byte
  special : BitVec 16
deriving DecidableEq, Repr

/-- R61: the 16 bytes at `da`, little-endian. -/
def readTxDesc (m : Memory) (da : Nat) : TxDesc where
  addr := BitVec.ofNat 64 (Memory.readLE m da 8)
  len := BitVec.ofNat 16 (Memory.readLE m (da + 8) 2)
  cso := Memory.read m (da + 10)
  cmd := Memory.read m (da + 11)
  sta := Memory.read m (da + 12)
  css := Memory.read m (da + 13)
  special := BitVec.ofNat 16 (Memory.readLE m (da + 14) 2)

/-- R62: a CMD byte the TX engine does not admit: EOP = 0, or IC, bit 4, DEXT or VLE = 1. -/
def txCmdRefused (cmd : Byte) : Bool :=
  !cmd.getLsbD 0 || cmd.getLsbD 2 || cmd.getLsbD 4 || cmd.getLsbD 5 || cmd.getLsbD 6

/-- An RX descriptor as it stands in memory (R64). -/
structure RxDesc where
  addr : BitVec 64
  len : BitVec 16
  csum : BitVec 16
  status : Byte
  errors : Byte
  special : BitVec 16
deriving DecidableEq, Repr

/-- R64: the 16 bytes at `da`, little-endian. -/
def readRxDesc (m : Memory) (da : Nat) : RxDesc where
  addr := BitVec.ofNat 64 (Memory.readLE m da 8)
  len := BitVec.ofNat 16 (Memory.readLE m (da + 8) 2)
  csum := BitVec.ofNat 16 (Memory.readLE m (da + 10) 2)
  status := Memory.read m (da + 12)
  errors := Memory.read m (da + 13)
  special := BitVec.ofNat 16 (Memory.readLE m (da + 14) 2)

/-! ## Hardware-owned bytes (R31, R32) -/

/-- `x` lies in `[lo, lo + n)`. -/
def inBytes (x lo n : Nat) : Bool := decide (lo ≤ x) && decide (x < lo + n)

/-- The first slot of a list whose 16 descriptor bytes hold `x`; none while the ring base is `⊥` (log
entry 14). -/
def descOwner (base : Option Nat) (slots : List Nat) (x : Nat) : Option Nat :=
  match base with
  | none => none
  | some b => slots.find? fun t => inBytes x (descAddr b t) 16

/-- R31: the TX hardware-owned slots, those of the window, then those in flight. -/
def txOwnedSlots (s : State) : List Nat :=
  s.regs.tx.window ++ s.txInflight.map fun e => e.slot.toNat

/-- R31: the slot of TXW whose buffer, by its descriptor in memory now, holds `x`. DESIGN CHOICE (log entry
24): descriptor bytes at or beyond MEM_BYTES, which the spec does not give, read as unlisted memory does, so a
descriptor wholly there has length 0 and owns no buffer byte. -/
def txBufferOwner (s : State) (x : Nat) : Option Nat :=
  match s.regs.tx.base with
  | none => none
  | some b =>
    s.regs.tx.window.find? fun t =>
      let d := readTxDesc s.mem (descAddr b t)
      inBytes x d.addr.toNat d.len.toNat

/-- R31: the slot in flight whose fetched buffer holds `x`. -/
def inflightOwner (s : State) (x : Nat) : Option Nat :=
  (s.txInflight.find? fun e => inBytes x e.baddr.toNat e.frame.length).map fun e => e.slot.toNat

/-- R32: the slot of RXW whose buffer, by its descriptor in memory now, holds `x`. DESIGN CHOICE, unsafe (log
entry 24): descriptor bytes at or beyond MEM_BYTES, which the spec does not give, read as unlisted memory does,
so a slot whose descriptor is wholly there (RDBAH not 0, say) has address 0 and owns the bytes `[0, BSIZE)`. -/
def rxBufferOwner (s : State) (x : Nat) : Option Nat :=
  match s.regs.rx.base, s.regs.rctl.bufSize with
  | some b, some n =>
    s.regs.rx.window.find? fun t => inBytes x (readRxDesc s.mem (descAddr b t)).addr.toNat n
  | _, _ => none

/-- R48: a slot that owns the byte at `x`, if the byte is hardware-owned: TX descriptors, TX buffers,
buffers in flight, RX descriptors, RX buffers, in this order (log entry 15). -/
def hwOwner (s : State) (x : Nat) : Option Nat :=
  (descOwner s.regs.tx.base (txOwnedSlots s) x).orElse fun _ =>
  (txBufferOwner s x).orElse fun _ =>
  (inflightOwner s x).orElse fun _ =>
  (descOwner s.regs.rx.base s.regs.rx.window x).orElse fun _ =>
  rxBufferOwner s x

/-- The owner of the first hardware-owned byte of `[a, a + n)`, if there is one. -/
def firstOwner (s : State) : Nat → Nat → Option Nat
  | _, 0 => none
  | a, n + 1 =>
    match hwOwner s a with
    | some slot => some slot
    | none => firstOwner s (a + 1) n

/-! ## Taking a fault (R163, R164) -/

/-- R163: the code of a fault. -/
def Fault.code : Fault → Nat
  | .csrBadWidth .. => 1
  | .csrOutOfWindow .. => 2
  | .csrMisaligned .. => 3
  | .csrUndocumented .. => 4
  | .csrReadUndefined .. => 5
  | .csrReadWriteOnly .. => 6
  | .csrValueUnsupported .. => 7
  | .csrWriteWhileEnabled .. => 8
  | .txTailOutOfRange .. => 9
  | .txTailRetract .. => 10
  | .txHeadOutOfRange .. => 11
  | .rxTailOutOfRange .. => 12
  | .rxTailRetract .. => 13
  | .rxHeadOutOfRange .. => 14
  | .ownershipViolation .. => 15
  | .dmaOutOfRange .. => 16
  | .dmaRegUndefined .. => 17
  | .txDescUnsupported .. => 18
  | .txLengthInvalid .. => 19
  | .filterUndefined .. => 20

/-- R164: the agent of a fault's record. -/
def Fault.agent : Fault → Agent
  | .dmaOutOfRange agent _ _ => agent
  | .dmaRegUndefined .tx => .txf
  | .dmaRegUndefined .rx => .rxd
  | .txDescUnsupported .. => .txf
  | .txLengthInvalid .. => .txf
  | .filterUndefined .. => .wireRx
  | _ => .host

/-- R164: "the fault record is added to the model's fault record", and the faulting step makes no other
write. -/
def State.recordFault (s : State) (f : Fault) : State := { s with faults := s.faults ++ [f] }

/-- R164: the state a step leaves: the next state, or, after a fault, the state it started from with the
fault recorded. A refused step leaves its state. -/
def settle (s : State) : Result → State
  | .next t => t
  | .fault f => s.recordFault f
  | .refused _ => s

/-- A step followed by another, stopping at a fault or a refusal. -/
def andThen (r : Result) (k : State → Result) : Result :=
  match r with
  | .next s => k s
  | .fault f => .fault f
  | .refused x => .refused x

end Sys2Proof.Machine
end

