-- ==== Sys2Proof/Machine/Flags.lean ====
section
/-! DEFINITION. The status flags (R34): the ICR causes (R21, R166), the interrupt line (R167), the done
and end-of-packet bits of descriptors and the slot states derived from them (R33). -/

namespace Sys2Proof.Machine

/-- R21: the interrupt causes a device step of this model can set. -/
inductive Cause where
  | txdw
  | txqe
  | rxdmt0
  | rxo
  | rxt0
deriving DecidableEq, Repr

/-- R21: the bit of a cause in ICR, ICS, IMS and IMC. -/
def Cause.bit : Cause → Nat
  | .txdw => 0
  | .txqe => 1
  | .rxdmt0 => 4
  | .rxo => 6
  | .rxt0 => 7

/-- The cause as a 17-bit mask. -/
def Cause.mask (c : Cause) : BitVec 17 := 1#17 <<< c.bit

/-- R166: a cause set (to 1, never to 0). -/
def setCause (icr : BitVec 17) (c : Cause) : BitVec 17 := icr ||| c.mask

/-- R166: a cause set when a condition holds. -/
def setCauseIf (icr : BitVec 17) (b : Bool) (c : Cause) : BitVec 17 := if b then setCause icr c else icr

/-- R22, R167: the level of the interrupt line, `(ICR[16:0] & imask) != 0`; derived, not stored. -/
def intr (s : State) : Bool := s.regs.icr &&& s.regs.imask != 0#17

/-- R63, R65: DD, bit 0 of a descriptor's status byte. -/
def ddBit (status : Byte) : Bool := status.getLsbD 0

/-- R65: EOP, bit 1 of an RX status byte. -/
def eopBit (status : Byte) : Bool := status.getLsbD 1

/-- R107: the STA byte TXC writes back: the fetched upper nibble, DD = 1, EC = LC = 0. -/
def staWriteBack (staHi : BitVec 4) : Byte := staHi ++ 1#4

/-- R132: the STATUS byte RXD writes back: a draw in bits 7:2, EOP, DD = 1. -/
def rxStatusByte (d : BitVec 6) (eop : Bool) : Byte := d ++ (BitVec.ofBool eop ++ 1#1)

/-- R33: the states of a TX slot that the source names. -/
inductive TxSlotState where
  | free
  | armed
deriving DecidableEq, Repr

/-- R33: DD of the descriptor of a slot, byte 12 of the descriptor of either ring (R61, R64). DESIGN CHOICE
(log entry 33): none while the ring base is `⊥`, when the slot has no descriptor; and the byte of a descriptor
at or beyond MEM_BYTES reads as unlisted memory does, so DD is 0 there. -/
def slotDone (s : State) (r : RingRegs) (slot : Nat) : Option Bool :=
  r.base.map fun b => ddBit (Memory.read s.mem (descAddr b slot + 12))

/-- R33: a TX slot is ARMED when it is hardware-owned, whatever the ring base, or its DD bit is 0, else FREE.
DESIGN CHOICE (log entry 33): a slot that is not hardware-owned and has no DD bit has no state. -/
def txSlotState (s : State) (slot : Nat) : Option TxSlotState :=
  if (txOwnedSlots s).contains slot then some .armed
  else (slotDone s s.regs.tx slot).map fun dd => if dd then .free else .armed

/-- R33: the states of an RX slot that the source names; any other combination has no name. -/
inductive RxSlotState where
  | posted
  | filled
  | neither
deriving DecidableEq, Repr

/-- R33: an RX slot is POSTED when it is in RXW with DD = 0, FILLED when it is not in RXW with DD = 1.
DEDUCED (log entry 26): R141 calls "every slot" POSTED after bring-up, and slot 127, the tail, is then not in
RXW; R33, which defines the states, is followed, so slot 127 is `neither`. DESIGN CHOICE (log entry 33): both
states need DD, so a slot without a DD bit, while RDBAL or RDBAH is `⊥`, has no state. -/
def rxSlotState (s : State) (slot : Nat) : Option RxSlotState :=
  (slotDone s s.regs.rx slot).map fun dd =>
    match s.regs.rx.window.contains slot, dd with
    | true, false => .posted
    | false, true => .filled
    | _, _ => .neither

end Sys2Proof.Machine
end

