-- ==== Sys2Proof/Machine/Eeprom.lean ====
section
/-! DEFINITION. 41_eeprom.md: the transactions of EECD and EERD, and the EEP step. -/

namespace Sys2Proof.Machine

/-- R85: CSR read of EECD. -/
def execCsrrEecd (s : State) : Result := .next (s.returnDrawn (eecdStored s.regs.eeReq) eecdX)

/-- R86: CSR write of EECD: EE_REQ is bit 6, every other bit is ignored. -/
def execCsrwEecd (v : Word) (s : State) : Result :=
  .next { s with regs := { s.regs with eeReq := v.getLsbD 6 } }

/-- R87: CSR read of EERD. -/
def execCsrrEerd (s : State) : Result := .next (s.returnDrawn (eerdStored s.regs) (eerdX s.eerdPending))

/-- R88: CSR write of EERD: stores ADDR; START = 1 starts a read, abandoning a pending one. -/
def execCsrwEerd (v : Word) (s : State) : Result :=
  if v.getLsbD 0 then
    .next { s with
      regs := { s.regs with eerdAddr := field v 8 8, eerdDone := false }
      eerdPending := true
      eerdReqAddr := field v 8 8 }
  else
    .next { s with regs := { s.regs with eerdAddr := field v 8 8 } }

/-- R89: when the EEP step is enabled (whatever EE_REQ). -/
def eepEnabled (s : State) : Bool := s.eerdPending && !s.inReset

/-- R89: the word a pending read completes with: the EEPROM's, or a draw beyond EEPROM_WORDS. -/
def eepWord (s : State) : BitVec 16 :=
  if h : s.eerdReqAddr.toNat < 64 then s.params.eeprom[s.eerdReqAddr.toNat]
  else (Config.draw s.drawn).setWidth 16

/-- R89: the EEP step. -/
def eepStep (s : State) : Result :=
  .next { s with
    regs := { s.regs with eerdData := eepWord s, eerdDone := true }
    eerdPending := false
    drawn := if s.eerdReqAddr.toNat < Config.eepromWords then s.drawn else s.drawn + 1 }

end Sys2Proof.Machine
end

