-- ==== Sys2Proof/Machine/Receive.lean ====
section
/-! DEFINITION. 43_receive.md: the transactions of RCTL, the RX ring registers, RAL, RAH and MTA, the
address filter, and the WIRE_RX and RXD steps. -/

namespace Sys2Proof.Machine

/-- The state with the RX ring registers replaced. -/
def State.setRx (s : State) (r : RingRegs) : State := { s with regs := { s.regs with rx := r } }

/-- R111: CSR read of RCTL. -/
def execCsrrRctl (s : State) : Result := .next (s.returnDrawn s.regs.rctl.stored rctlX)

/-- R112: a write that changes the buffer size while the receiver stays enabled. -/
def rctlResizes (r : Rctl) (v : Word) : Bool :=
  r.en && v.getLsbD 1 && (field v 16 2 != r.bsize || v.getLsbD 25 != r.bsex)

/-- R112: CSR write of RCTL. -/
def execCsrwRctl (v : Word) (s : State) : Result :=
  if rctlRefused v then .fault (.csrValueUnsupported 0x00100 v)
  else if rctlResizes s.regs.rctl v then .fault (.csrWriteWhileEnabled 0x00100)
  else .next { s with regs := { s.regs with rctl := Rctl.ofWord v } }

/-- R113: CSR read of RDBAL. -/
def execCsrrRdbal (s : State) : Result := readCells s 0x02800 s.regs.rx.balStored balX

/-- R114: CSR write of RDBAL; bits 3:0 are dropped. -/
def execCsrwRdbal (v : Word) (s : State) : Result :=
  if s.regs.rctl.en then .fault (.csrWriteWhileEnabled 0x02800)
  else .next (s.setRx { s.regs.rx with dbal := some (field v 4 28) })

/-- R115: CSR read of RDBAH. -/
def execCsrrRdbah (s : State) : Result := readCell s 0x02804 s.regs.rx.dbah

/-- R116: CSR write of RDBAH. -/
def execCsrwRdbah (v : Word) (s : State) : Result :=
  if s.regs.rctl.en then .fault (.csrWriteWhileEnabled 0x02804)
  else .next (s.setRx { s.regs.rx with dbah := some v })

/-- R117: CSR read of RDLEN. -/
def execCsrrRdlen (s : State) : Result := .next (s.returnDrawn s.regs.rx.lenStored lenX)

/-- R118: CSR write of RDLEN; bits 6:0 are dropped. -/
def execCsrwRdlen (v : Word) (s : State) : Result :=
  if s.regs.rctl.en then .fault (.csrWriteWhileEnabled 0x02808)
  else .next (s.setRx { s.regs.rx with len := field v 7 13 })

/-- R119: CSR read of RDH. -/
def execCsrrRdh (s : State) : Result := .next (s.returnDrawn (s.regs.rx.head.setWidth 32) indexX)

/-- R120: CSR write of RDH. -/
def execCsrwRdh (v : Word) (s : State) : Result :=
  if s.regs.rctl.en then .fault (.csrWriteWhileEnabled 0x02810)
  else if s.regs.rx.headOutOfRange (field v 0 16).toNat then
    .fault (.rxHeadOutOfRange (field v 0 16).toNat)
  else .next (s.setRx { s.regs.rx with head := field v 0 16 })

/-- R121: CSR read of RDT. -/
def execCsrrRdt (s : State) : Result := .next (s.returnDrawn (s.regs.rx.tail.setWidth 32) indexX)

/-- R122: CSR write of RDT, the grant operation. -/
def execCsrwRdt (v : Word) (s : State) : Result :=
  match s.regs.rx.tailFault (field v 0 16).toNat .rxTailOutOfRange .rxTailRetract with
  | some f => .fault f
  | none => .next (s.setRx { s.regs.rx with tail := field v 0 16 })

/-- R123: CSR read of RAL[n]. -/
def execCsrrRal (n : BitVec 4) (s : State) : Result :=
  readCell s (0x05400 + 8 * n.toNat) (s.regs.raAt n).ral

/-- R124: CSR write of RAL[n]. -/
def execCsrwRal (n : BitVec 4) (v : Word) (s : State) : Result :=
  .next { s with regs := s.regs.setRa n { s.regs.raAt n with ral := some v } }

/-- R125: CSR read of RAH[n]. -/
def execCsrrRah (n : BitVec 4) (s : State) : Result :=
  readCells s (0x05404 + 8 * n.toNat) (s.regs.raAt n).storedHi rahX

/-- R126: CSR write of RAH[n]; ASEL other than 00b is refused. -/
def execCsrwRah (n : BitVec 4) (v : Word) (s : State) : Result :=
  if field v 16 2 ≠ 0#2 then .fault (.csrValueUnsupported (0x05404 + 8 * n.toNat) v)
  else .next { s with regs := s.regs.setRa n ((s.regs.raAt n).withHi v) }

/-- R127: CSR read of MTA[i]. -/
def execCsrrMta (i : BitVec 7) (s : State) : Result :=
  readCell s (0x05200 + 4 * i.toNat) (s.regs.mtaAt i)

/-- R128: CSR write of MTA[i]. -/
def execCsrwMta (i : BitVec 7) (v : Word) (s : State) : Result :=
  .next { s with regs := s.regs.setMta i v }

/-! ## The address filter (R130) -/

/-- R130: the destination address `D = p[0..5]`. -/
def destination (p : Frame) : List Byte := p.take 6

/-- R130: a multicast address has bit 0 of its first byte set. -/
def isMulticast (d : List Byte) : Bool := (d.getD 0 0#8).getLsbD 0

/-- R130: the broadcast address FF:FF:FF:FF:FF:FF. -/
def isBroadcast (d : List Byte) : Bool := d == List.replicate 6 0xFF#8

/-- R130, check 4: the exact-match entries in order, from entry `n` on. -/
def exactMatch (d : List Byte) : Nat → List RaEntry → Except Fault Bool
  | _, [] => .ok false
  | n, e :: es =>
    match e.av with
    | none => .error (.filterUndefined (.rah n))
    | some av =>
      if av = 1#1 then
        match e.ral, e.addrHi with
        | some lo, some hi => if d = entryBytes lo hi then .ok true else exactMatch d (n + 1) es
        | _, _ => .error (.filterUndefined (.ra n))
      else exactMatch d (n + 1) es

/-- R130, R150: the 12-bit multicast hash of D[4] and D[5] that RCTL.MO selects. -/
def mtaHash (mo : BitVec 2) (d4 d5 : Byte) : BitVec 12 :=
  let a : BitVec 16 := d4.setWidth 16
  let b : BitVec 16 := d5.setWidth 16
  let h : BitVec 16 :=
    match mo.toNat with
    | 0 => (a >>> 4) ||| (b <<< 4)
    | 1 => (a >>> 3) ||| (b <<< 5)
    | 2 => (a >>> 2) ||| (b <<< 6)
    | _ => a ||| (b <<< 8)
  h.setWidth 12

/-- R130, check 5: the bit of the multicast table that the hash names. -/
def multicastMatch (r : Csrs) (d : List Byte) : Except Fault Bool :=
  let h := mtaHash r.rctl.mo (d.getD 4 0#8) (d.getD 5 0#8)
  let k : BitVec 7 := h.extractLsb' 5 7
  match r.mtaAt k with
  | none => .error (.filterUndefined (.mta k.toNat))
  | some w => .ok (w.getLsbD (h.extractLsb' 0 5).toNat)

/-- R130: `rx_filter(p)`, the checks in order, the first that accepts decides. -/
def rxFilter (r : Csrs) (p : Frame) : Except Fault Bool :=
  let d := destination p
  let mcast := isMulticast d
  if isBroadcast d && r.rctl.bam then .ok true
  else if !mcast && r.rctl.upe then .ok true
  else if mcast && r.rctl.mpe then .ok true
  else
    match exactMatch d 0 r.ra.toList with
    | .error f => .error f
    | .ok true => .ok true
    | .ok false => if mcast then multicastMatch r d else .ok false

/-! ## WIRE_RX (R131) -/

/-- R131: the longest frame accepted. -/
def rxMaxFrame (r : Rctl) : Nat := if r.lpe then Config.rxMaxLpe else Config.rxMaxNoLpe

/-- R131: the link never offers a frame shorter than MIN_FRAME. -/
def wireRxEnabled (p : Frame) : Bool := decide (Config.minFrame ≤ p.length)

/-- R131: an accepted frame enters the FIFO, with four drawn FCS bytes unless SECRC = 1, or is dropped
with RXO when the FIFO is full. -/
def wireRxAccept (p : Frame) (s : State) : State :=
  let n := if s.regs.rctl.secrc then 0 else 4
  let t := { s with drawn := s.drawn + n }
  if s.params.rxFifoFrames ≤ s.rxFifo.length then
    { t with regs := { t.regs with icr := setCause t.regs.icr .rxo } }
  else { t with rxFifo := s.rxFifo ++ [p ++ drawBytes s.drawn n] }

/-- R131: the WIRE_RX step, the link offers the frame `p`. -/
def wireRxStep (p : Frame) (s : State) : Result :=
  if s.inReset || !s.regs.rctl.en then .next s
  else if rxMaxFrame s.regs.rctl < p.length then .next s
  else
    match rxFilter s.regs p with
    | .error f => .fault f
    | .ok false => .next s
    | .ok true => .next (wireRxAccept p s)

/-! ## RXD (R132) -/

/-- R132: `ceil(|q| / b)`, the descriptors a frame of `n` bytes takes. -/
def chunkCount (n b : Nat) : Nat := (n + b - 1) / b

/-- R132, R149: the chunks `c_0 .. c_{k-1}` of a frame. -/
def chunks (b : Nat) : Nat → Frame → List Frame
  | 0, _ => []
  | k + 1, q => q.take b :: chunks b k (q.drop b)

/-- R132: when the RXD step is enabled: the oldest frame can never fit the ring, or enough descriptors
are free. -/
def rxdEnabled (s : State) : Bool :=
  !s.inReset && s.regs.rctl.en && s.regs.rx.usable &&
    match s.rxFifo, s.regs.rctl.bufSize with
    | q :: _, some b =>
      decide (s.regs.rx.slots - 1 < chunkCount q.length b) ||
        decide (chunkCount q.length b ≤ s.regs.rx.owned)
    | _, _ => false

/-- R132: one deposit: chunk `bytes` to the buffer at `addr`, written back to the descriptor at `da`. -/
structure Deposit where
  da : Nat
  addr : Nat
  bytes : Frame
deriving DecidableEq, Repr

/-- R132: the checks of every chunk, in slot order, before any write; `slot` is the slot of the first.
DEDUCED, unsafe for frames of several descriptors (log entry 28): chunk `j` goes to the address field of its own
descriptor, as R132's pseudocode has it; the `j * BSIZE` that R153 adds for chunk `j` is read as where the chunk
starts in the frame (`chunks`). The spec has no ruling between the two rules. -/
def planDeposits (s : State) (base : Nat) : Nat → List Frame → Except Fault (List Deposit)
  | _, [] => .ok []
  | slot, c :: cs =>
    let da := descAddr base slot
    if !dmaInRange s da 8 then .error (.dmaOutOfRange .rxd da 8)
    else
      let a := (readRxDesc s.mem da).addr.toNat
      if !dmaInRange s da 16 then .error (.dmaOutOfRange .rxd da 16)
      else if !dmaInRange s a c.length then .error (.dmaOutOfRange .rxd a c.length)
      else
        match planDeposits s base ((slot + 1) % s.regs.rx.slots) cs with
        | .error f => .error f
        | .ok ds => .ok (⟨da, a, c⟩ :: ds)

/-- R132: bytes 8 to 15 the device writes back to a descriptor: length, checksum (a draw), STATUS, ERRORS,
special (a draw). The draws are the `k`-th and the two after it. -/
def writeBackBytes (len : Nat) (eop : Bool) (k : Nat) : List Byte :=
  [BitVec.ofNat 8 len, BitVec.ofNat 8 (len / 256),
    (Config.draw k).extractLsb' 0 8, (Config.draw k).extractLsb' 8 8,
    rxStatusByte ((Config.draw (k + 1)).setWidth 6) eop, 0#8,
    (Config.draw (k + 2)).extractLsb' 0 8, (Config.draw (k + 2)).extractLsb' 8 8]

/-- R132: the deposits in slot order; the last carries EOP. Each makes three draws from `k` on. -/
def applyDeposits : Memory → Nat → List Deposit → Memory
  | m, _, [] => m
  | m, k, d :: ds =>
    let m1 := Memory.writeBytes m d.addr d.bytes
    let m2 := Memory.writeBytes m1 (d.da + 8) (writeBackBytes d.bytes.length ds.isEmpty k)
    applyDeposits m2 (k + 3) ds

/-- R132: RXDMT0 is due when at most `N_r >> (1 + RDMTS)` descriptors are free (D49). -/
def rxLow (s : State) (rx : RingRegs) : Bool :=
  decide (ringDist rx.tail.toNat rx.head.toNat rx.slots ≤ rx.slots >>> (1 + s.regs.rctl.rdmts.toNat))

/-- R132: the RXD step, deposit the oldest frame of rx_fifo. -/
def rxdStep (s : State) : Result :=
  match s.rxFifo, s.regs.rctl.bufSize with
  | q :: rest, some b =>
    let k := chunkCount q.length b
    if s.regs.rx.slots - 1 < k then
      .next { s with
        rxFifo := rest
        regs := { s.regs with icr := setCause s.regs.icr .rxo } }
    else
      match s.regs.rx.base with
      | none => .fault (.dmaRegUndefined .rx)
      | some base =>
        match planDeposits s base s.regs.rx.head.toNat (chunks b k q) with
        | .error f => .fault f
        | .ok ds =>
          let rx := s.regs.rx.advance k
          .next { s with
            mem := applyDeposits s.mem s.drawn ds
            drawn := s.drawn + 3 * k
            rxFifo := rest
            regs := { s.regs with
              rx := rx
              icr := setCauseIf (setCause s.regs.icr .rxt0) (rxLow s rx) .rxdmt0 } }
  | _, _ => .next s

end Sys2Proof.Machine
end

