-- ==== Sys2Proof/Machine/RegisterWindow.lean ====
section
/-! DEFINITION. The transactions of 40_register_window.md: CTRL, STATUS, ICR, ICS, IMS, IMC. A meaning is
the register's read or write rule; the checks of R69 before it are the host step's (Machine/Host.lean). -/

namespace Sys2Proof.Machine

/-- R73: CSR read of CTRL. -/
def execCsrrCtrl (s : State) : Result := readCells s 0x00000 s.regs.ctrl.stored ctrlX

/-- R74: CSR write of CTRL; RST = 1 starts a software reset. -/
def execCsrwCtrl (v : Word) (s : State) : Result :=
  if ctrlRefused v then .fault (.csrValueUnsupported 0x00000 v)
  else
    .next { s with
      regs := { s.regs with ctrl := Ctrl.ofWord v }
      inReset := s.inReset || v.getLsbD 26 }

/-- R75: CSR read of STATUS. -/
def execCsrrStatus (s : State) : Result := .next (s.returnValue s.params.linkStatus)

/-- R76: CSR write of STATUS: every field is RO. -/
def execCsrwStatus (_v : Word) (s : State) : Result := .next s

/-- R77: CSR read of ICR; the read clears every cause. -/
def execCsrrIcr (s : State) : Result :=
  let t := s.returnDrawn (s.regs.icr.setWidth 32) causeX
  .next { t with regs := { t.regs with icr := 0#17 } }

/-- R78: CSR write of ICR: clears the causes written as 1. -/
def execCsrwIcr (v : Word) (s : State) : Result :=
  .next { s with regs := { s.regs with icr := s.regs.icr &&& ~~~(v.setWidth 17) } }

/-- R79: CSR read of ICS: always `CsrReadWriteOnly`. -/
def execCsrrIcs (_s : State) : Result := .fault (.csrReadWriteOnly 0x000C8)

/-- R80: CSR write of ICS: sets the causes written as 1. -/
def execCsrwIcs (v : Word) (s : State) : Result :=
  .next { s with regs := { s.regs with icr := s.regs.icr ||| v.setWidth 17 } }

/-- R81: CSR read of IMS: the mask. -/
def execCsrrIms (s : State) : Result := .next (s.returnDrawn (s.regs.imask.setWidth 32) causeX)

/-- R82: CSR write of IMS: sets the mask bits written as 1. -/
def execCsrwIms (v : Word) (s : State) : Result :=
  .next { s with regs := { s.regs with imask := s.regs.imask ||| v.setWidth 17 } }

/-- R83: CSR read of IMC: always `CsrReadWriteOnly`. -/
def execCsrrImc (_s : State) : Result := .fault (.csrReadWriteOnly 0x000D8)

/-- R84: CSR write of IMC: clears the mask bits written as 1. -/
def execCsrwImc (v : Word) (s : State) : Result :=
  .next { s with regs := { s.regs with imask := s.regs.imask &&& ~~~(v.setWidth 17) } }

end Sys2Proof.Machine
end

