-- ==== Sys2Proof/Machine/Transmit.lean ====
section
/-! DEFINITION. 42_transmit.md: the transactions of TCTL, TIPG and the TX ring registers, and the TXF and
TXC steps. -/

namespace Sys2Proof.Machine

/-- 42_transmit.md, introduction: `tx_quiet` means TCTL.EN = 0 and tx_inflight is empty. -/
def txQuiet (s : State) : Bool := !s.regs.tctl.en && s.txInflight.isEmpty

/-- The state with the TX ring registers replaced. -/
def State.setTx (s : State) (r : RingRegs) : State := { s with regs := { s.regs with tx := r } }

/-- R92: CSR read of TCTL. -/
def execCsrrTctl (s : State) : Result := readCells s 0x00400 s.regs.tctl.stored tctlX

/-- R93: CSR write of TCTL; SWXOFF = 1 is refused. -/
def execCsrwTctl (v : Word) (s : State) : Result :=
  if v.getLsbD 22 then .fault (.csrValueUnsupported 0x00400 v)
  else .next { s with regs := { s.regs with tctl := Tctl.ofWord v } }

/-- R94: CSR read of TIPG. -/
def execCsrrTipg (s : State) : Result := readCells s 0x00410 s.regs.tipg.stored tipgX

/-- R95: CSR write of TIPG. -/
def execCsrwTipg (v : Word) (s : State) : Result :=
  .next { s with regs := { s.regs with tipg := Tipg.ofWord v } }

/-- R96: CSR read of TDBAL. -/
def execCsrrTdbal (s : State) : Result := readCells s 0x03800 s.regs.tx.balStored balX

/-- R97: CSR write of TDBAL; bits 3:0 are dropped. -/
def execCsrwTdbal (v : Word) (s : State) : Result :=
  if !txQuiet s then .fault (.csrWriteWhileEnabled 0x03800)
  else .next (s.setTx { s.regs.tx with dbal := some (field v 4 28) })

/-- R98: CSR read of TDBAH. -/
def execCsrrTdbah (s : State) : Result := readCell s 0x03804 s.regs.tx.dbah

/-- R99: CSR write of TDBAH. -/
def execCsrwTdbah (v : Word) (s : State) : Result :=
  if !txQuiet s then .fault (.csrWriteWhileEnabled 0x03804)
  else .next (s.setTx { s.regs.tx with dbah := some v })

/-- R100: CSR read of TDLEN. -/
def execCsrrTdlen (s : State) : Result := .next (s.returnDrawn s.regs.tx.lenStored lenX)

/-- R101: CSR write of TDLEN; bits 6:0 are dropped. -/
def execCsrwTdlen (v : Word) (s : State) : Result :=
  if !txQuiet s then .fault (.csrWriteWhileEnabled 0x03808)
  else .next (s.setTx { s.regs.tx with len := field v 7 13 })

/-- R102: CSR read of TDH. -/
def execCsrrTdh (s : State) : Result := .next (s.returnDrawn (s.regs.tx.head.setWidth 32) indexX)

/-- R103: CSR write of TDH. -/
def execCsrwTdh (v : Word) (s : State) : Result :=
  if !txQuiet s then .fault (.csrWriteWhileEnabled 0x03810)
  else if s.regs.tx.headOutOfRange (field v 0 16).toNat then
    .fault (.txHeadOutOfRange (field v 0 16).toNat)
  else .next (s.setTx { s.regs.tx with head := field v 0 16 })

/-- R104: CSR read of TDT. -/
def execCsrrTdt (s : State) : Result := .next (s.returnDrawn (s.regs.tx.tail.setWidth 32) indexX)

/-- R105: CSR write of TDT, the publish operation. -/
def execCsrwTdt (v : Word) (s : State) : Result :=
  match s.regs.tx.tailFault (field v 0 16).toNat .txTailOutOfRange .txTailRetract with
  | some f => .fault f
  | none => .next (s.setTx { s.regs.tx with tail := field v 0 16 })

/-! ## The TX DMA engine -/

/-- R106: when the TXF step is enabled. -/
def txfEnabled (s : State) : Bool :=
  !s.inReset && s.regs.tctl.en && s.regs.tx.usable && s.regs.tx.head != s.regs.tx.tail &&
    decide (s.txInflight.length < s.params.txInflightMax)

/-- R106: the entry a fetch appends: descriptor `d` of slot `slot` at `da`, its buffer read now. -/
def fetchedEntry (s : State) (slot da : Nat) (d : TxDesc) : TxEntry where
  slot := BitVec.ofNat 16 slot
  daddr := BitVec.ofNat 64 da
  baddr := d.addr
  frame := Memory.readBytes s.mem d.addr.toNat d.len.toNat
  rs := d.cmd.getLsbD 3
  ifcs := d.cmd.getLsbD 1
  staHi := d.sta.extractLsb' 4 4

/-- R106: the TXF step, fetch one published descriptor. The checks stand in the order of R165. -/
def txfStep (s : State) : Result :=
  match s.regs.tx.base with
  | none => .fault (.dmaRegUndefined .tx)
  | some base =>
    let slot := s.regs.tx.head.toNat
    let da := descAddr base slot
    if !dmaInRange s da 16 then .fault (.dmaOutOfRange .txf da 16)
    else
      let d := readTxDesc s.mem da
      if txCmdRefused d.cmd then .fault (.txDescUnsupported slot d.cmd)
      else if d.len.toNat = 0 ∨ Config.txDescMaxLen < d.len.toNat then
        .fault (.txLengthInvalid slot d.len.toNat)
      else if !dmaInRange s d.addr.toNat d.len.toNat then
        .fault (.dmaOutOfRange .txf d.addr.toNat d.len.toNat)
      else
        .next { s.setTx (s.regs.tx.advance 1) with
          txInflight := s.txInflight ++ [fetchedEntry s slot da d] }

/-- R107: how many bytes pad a frame: up to MIN_FRAME when PSP = 1, else none (R149). -/
def padLength (psp : Bool) (f : Frame) : Nat := if psp then Config.minFrame - f.length else 0

/-- R107: `emit` of an entry's frame, padded with draws. -/
def emitEntry (s : State) (e : TxEntry) : State :=
  let n := padLength s.regs.tctl.psp e.frame
  { s with
    wireOut := s.wireOut ++ [⟨e.frame ++ drawBytes s.drawn n, e.ifcs⟩]
    drawn := s.drawn + n }

/-- R107: when the TXC step is enabled (whatever TCTL.EN). -/
def txcEnabled (s : State) : Bool := !s.inReset && !s.txInflight.isEmpty

/-- R107: the causes a completion sets: TXDW when RS = 1, TXQE when nothing is left to send. -/
def txcCauses (s : State) (e : TxEntry) (rest : List TxEntry) : BitVec 17 :=
  setCauseIf (setCauseIf s.regs.icr e.rs .txdw)
    (rest.isEmpty && s.regs.tx.head == s.regs.tx.tail) .txqe

/-- R107: the TXC step, complete the oldest fetched descriptor; with RS = 1 byte 12 is written back. -/
def txcStep (s : State) : Result :=
  match s.txInflight with
  | [] => .next s
  | e :: rest =>
    let t := emitEntry { s with txInflight := rest } e
    let u := { t with regs := { t.regs with icr := txcCauses s e rest } }
    if e.rs then
      if !dmaInRange s (e.daddr.toNat + 12) 1 then .fault (.dmaOutOfRange .txc (e.daddr.toNat + 12) 1)
      else .next { u with mem := Memory.write u.mem (e.daddr.toNat + 12) (staWriteBack e.staHi) }
    else .next u

end Sys2Proof.Machine
end

