-- ==== Sys2Proof/Machine/Dispatch.lean ====
section
/-! DEFINITION. The dispatch: one arm per row of spec/opcode_table.json. -/

namespace Sys2Proof.Machine

-- The register's read or write rule; the checks and the hold of R69 stand in Machine/Host.lean.
def exec (i : Instr) (s : State) : Host.Outcome State Fault Refusal :=
  match i with
  | .csrrCtrl => Sys2Proof.Machine.execCsrrCtrl s
  | .csrwCtrl v => Sys2Proof.Machine.execCsrwCtrl v s
  | .csrrStatus => Sys2Proof.Machine.execCsrrStatus s
  | .csrwStatus v => Sys2Proof.Machine.execCsrwStatus v s
  | .csrrEecd => Sys2Proof.Machine.execCsrrEecd s
  | .csrwEecd v => Sys2Proof.Machine.execCsrwEecd v s
  | .csrrEerd => Sys2Proof.Machine.execCsrrEerd s
  | .csrwEerd v => Sys2Proof.Machine.execCsrwEerd v s
  | .csrrIcr => Sys2Proof.Machine.execCsrrIcr s
  | .csrwIcr v => Sys2Proof.Machine.execCsrwIcr v s
  | .csrrIcs => Sys2Proof.Machine.execCsrrIcs s
  | .csrwIcs v => Sys2Proof.Machine.execCsrwIcs v s
  | .csrrIms => Sys2Proof.Machine.execCsrrIms s
  | .csrwIms v => Sys2Proof.Machine.execCsrwIms v s
  | .csrrImc => Sys2Proof.Machine.execCsrrImc s
  | .csrwImc v => Sys2Proof.Machine.execCsrwImc v s
  | .csrrRctl => Sys2Proof.Machine.execCsrrRctl s
  | .csrwRctl v => Sys2Proof.Machine.execCsrwRctl v s
  | .csrrTctl => Sys2Proof.Machine.execCsrrTctl s
  | .csrwTctl v => Sys2Proof.Machine.execCsrwTctl v s
  | .csrrTipg => Sys2Proof.Machine.execCsrrTipg s
  | .csrwTipg v => Sys2Proof.Machine.execCsrwTipg v s
  | .csrrRdbal => Sys2Proof.Machine.execCsrrRdbal s
  | .csrwRdbal v => Sys2Proof.Machine.execCsrwRdbal v s
  | .csrrRdbah => Sys2Proof.Machine.execCsrrRdbah s
  | .csrwRdbah v => Sys2Proof.Machine.execCsrwRdbah v s
  | .csrrRdlen => Sys2Proof.Machine.execCsrrRdlen s
  | .csrwRdlen v => Sys2Proof.Machine.execCsrwRdlen v s
  | .csrrRdh => Sys2Proof.Machine.execCsrrRdh s
  | .csrwRdh v => Sys2Proof.Machine.execCsrwRdh v s
  | .csrrRdt => Sys2Proof.Machine.execCsrrRdt s
  | .csrwRdt v => Sys2Proof.Machine.execCsrwRdt v s
  | .csrrTdbal => Sys2Proof.Machine.execCsrrTdbal s
  | .csrwTdbal v => Sys2Proof.Machine.execCsrwTdbal v s
  | .csrrTdbah => Sys2Proof.Machine.execCsrrTdbah s
  | .csrwTdbah v => Sys2Proof.Machine.execCsrwTdbah v s
  | .csrrTdlen => Sys2Proof.Machine.execCsrrTdlen s
  | .csrwTdlen v => Sys2Proof.Machine.execCsrwTdlen v s
  | .csrrTdh => Sys2Proof.Machine.execCsrrTdh s
  | .csrwTdh v => Sys2Proof.Machine.execCsrwTdh v s
  | .csrrTdt => Sys2Proof.Machine.execCsrrTdt s
  | .csrwTdt v => Sys2Proof.Machine.execCsrwTdt v s
  | .csrrMta a => Sys2Proof.Machine.execCsrrMta a s
  | .csrwMta a v => Sys2Proof.Machine.execCsrwMta a v s
  | .csrrRal n => Sys2Proof.Machine.execCsrrRal n s
  | .csrwRal n v => Sys2Proof.Machine.execCsrwRal n v s
  | .csrrRah n => Sys2Proof.Machine.execCsrrRah n s
  | .csrwRah n v => Sys2Proof.Machine.execCsrwRah n v s

end Sys2Proof.Machine
end

