-- ==== Sys2Proof/Machine/Host.lean ====
section
/-! DEFINITION. The HOST agent (R7): the checks every CSR transaction obeys (R69) and the forms of the host
notation (R155 to R162). One call of `hostStep` is one step of one task. -/

namespace Sys2Proof.Machine

/-! ## CSR transactions (R69) -/

/-- R56: the key of a transaction whose offset lies in the window. -/
def transactionKey (x : Transaction) : BitVec 18 :=
  BitVec.ofNat 18 (x.offset + if x.write then 0x20000 else 0)

/-- R69: the checks of a transaction, in order; then the instruction its key decodes to (R57). -/
def checkTransaction (x : Transaction) : Except Fault Instr :=
  if x.width ≠ 4 then .error (.csrBadWidth x.offset x.width)
  else if Config.regSize ≤ x.offset then .error (.csrOutOfWindow x.offset)
  else if x.offset % 4 ≠ 0 then .error (.csrMisaligned x.offset)
  else
    match decodeWords ((transactionKey x).setWidth 32) x.value with
    | .error _ => .error (.csrUndocumented x.offset)
    | .ok i => .ok i

/-- The transaction a form issues, with its operand evaluated: R155, R156 (`expr mod 2^32`). -/
def formTransaction (temps : List (Nat × Int)) : Form → Option Transaction
  | .csrr _ offset width => some ⟨false, offset, width, 0#32⟩
  | .csrw offset width e => some ⟨true, offset, width, BitVec.ofInt 32 (evalExpr temps e)⟩
  | _ => none

/-- The temporary a form's CSR read goes to. -/
def formDest : Form → Option Nat
  | .csrr t _ _ => some t
  | _ => none

/-! ## Host tasks -/

/-- The state with task `k` replaced. -/
def State.setTask (s : State) (k : Nat) (t : Task) : State := { s with tasks := s.tasks.set k t }

/-- The task at its next form. -/
def Task.advance (t : Task) : Task := { t with pos := t.pos + 1, moved := [] }

/-- The task after `%d <- v`. -/
def Task.assign (t : Task) (d : Nat) (v : Int) : Task := { t with temps := setTemp t.temps d v }

/-- The task after its CSR read returned `v`, or its CSR write was done. -/
def Task.receive (t : Task) (dest : Option Nat) (v : Word) : Task :=
  match dest with
  | some d => t.assign d v.toNat
  | none => t

/-- R152: where a label stands in a program. DESIGN CHOICE, unsafe (log entry 25): the spec says nothing of a
label written twice (R68, R152), and the model takes its first occurrence; `programWellFormed` asks that none
is, and no program of RefHost writes one twice. -/
def findLabel : List Form → Nat → Option Nat
  | [], _ => none
  | f :: fs, l => if f = .label l then some 0 else (findLabel fs l).map (· + 1)

/-- The next form of a running task. -/
def Task.nextForm (t : Task) : Option Form :=
  match t.status with
  | .running => t.code[t.pos]?
  | _ => none

/-- R69, R177: a transaction that passes the four checks is held while a reset is in progress. -/
def held (s : State) (t : Task) (f : Form) : Bool :=
  s.inReset &&
    match formTransaction t.temps f with
    | none => false
    | some x =>
      match checkTransaction x with
      | .ok _ => true
      | .error _ => false

/-- R69: a CSR form: the checks, the hold, then the register's rule; then the task takes the value read
and goes on. -/
def hostCsr (k : Nat) (t : Task) (f : Form) (x : Transaction) (s : State) : Result :=
  match checkTransaction x with
  | .error e => .fault e
  | .ok i =>
    if s.inReset then .next s
    else andThen (exec i s) fun u => .next (u.setTask k (t.receive (formDest f) u.busData).advance)

/-! ## Loads and stores (R157, R158, R44) -/

/-- R49: a byte a host load returns: a draw when it is a hardware-owned RX buffer byte, else memory's. -/
def loadByte (s : State) (x : Nat) : Byte × State :=
  if (rxBufferOwner s x).isSome then ((Config.draw s.drawn).setWidth 8, { s with drawn := s.drawn + 1 })
  else (Memory.read s.mem x, s)

/-- R49: the bytes of an aligned load, ascending. -/
def loadBytes : State → Nat → Nat → List Byte × State
  | s, _, 0 => ([], s)
  | s, x, n + 1 =>
    let p := loadByte s x
    let q := loadBytes p.2 (x + 1) n
    (p.1 :: q.1, q.2)

/-- R157: a load of width `w` into temporary `d` from `a`: one step when aligned, else one byte a step,
ascending (R44); zero-extended. -/
def hostLoad (k : Nat) (t : Task) (w : Width) (d : Nat) (a : Expr) (s : State) : Result :=
  let x := evalExpr t.temps a
  let n := widthBytes w
  if x < 0 then .refused (.hostAddressBeyondMemory x)
  else if x.toNat % n = 0 then
    if s.params.memBytes < x.toNat + n then .refused (.hostAddressBeyondMemory x)
    else
      let p := loadBytes s x.toNat n
      .next (p.2.setTask k (t.assign d (leNat p.1)).advance)
  else
    let y := x.toNat + t.moved.length
    if s.params.memBytes ≤ y then .refused (.hostAddressBeyondMemory y)
    else
      let p := loadByte s y
      let moved := t.moved ++ [p.1]
      if n ≤ moved.length then .next (p.2.setTask k (t.assign d (leNat moved)).advance)
      else .next (p.2.setTask k { t with moved := moved })

/-- R158: the bytes a store writes, `expr mod 2^(8w)`, least significant first. -/
def storeBytes (n : Nat) (v : Int) : List Byte := bytesOfNat n (v % 2 ^ (8 * n)).toNat

/-- R158: a store of width `w` to `a`: one step when aligned, else one byte a step, each checked on its
own (R44); a store that touches a hardware-owned byte faults (R48). DESIGN CHOICE (log entry 29): a store of
which a byte is at or beyond MEM_BYTES, which is not a program (R157), is refused before the ownership check,
also when another byte of it is hardware-owned. -/
def hostStore (k : Nat) (t : Task) (w : Width) (a e : Expr) (s : State) : Result :=
  let x := evalExpr t.temps a
  let n := widthBytes w
  let bytes := storeBytes n (evalExpr t.temps e)
  if x < 0 then .refused (.hostAddressBeyondMemory x)
  else if x.toNat % n = 0 then
    if s.params.memBytes < x.toNat + n then .refused (.hostAddressBeyondMemory x)
    else
      match firstOwner s x.toNat n with
      | some slot => .fault (.ownershipViolation x.toNat slot)
      | none =>
        .next (({ s with mem := Memory.writeBytes s.mem x.toNat bytes } : State).setTask k t.advance)
  else
    let y := x.toNat + t.moved.length
    if s.params.memBytes ≤ y then .refused (.hostAddressBeyondMemory y)
    else
      match hwOwner s y with
      | some slot => .fault (.ownershipViolation y slot)
      | none =>
        let b := bytes.getD t.moved.length 0#8
        let u : State := { s with mem := Memory.write s.mem y b }
        if n ≤ t.moved.length + 1 then .next (u.setTask k t.advance)
        else .next (u.setTask k { t with moved := t.moved ++ [b] })

/-! ## Control transfer (R159 to R162) -/

/-- A taken branch: the task continues at the label. -/
def hostJump (k : Nat) (t : Task) (l : Nat) (s : State) : Result :=
  match findLabel t.code l with
  | none => .refused (.undefinedLabel l)
  | some p => .next (s.setTask k { t with pos := p, moved := [] })

/-- R68: one form of task `k`. -/
def hostForm (k : Nat) (t : Task) (s : State) : Form → Result
  | .csrr d offset width => hostCsr k t (.csrr d offset width) ⟨false, offset, width, 0#32⟩ s
  | .csrw offset width e =>
    hostCsr k t (.csrw offset width e) ⟨true, offset, width, BitVec.ofInt 32 (evalExpr t.temps e)⟩ s
  | .load w d a => hostLoad k t w d a s
  | .store w a e => hostStore k t w a e s
  | .label _ => .next (s.setTask k t.advance)
  | .beq x y l =>
    if evalExpr t.temps x = evalExpr t.temps y then hostJump k t l s else .next (s.setTask k t.advance)
  | .bne x y l =>
    if evalExpr t.temps x = evalExpr t.temps y then .next (s.setTask k t.advance) else hostJump k t l s
  | .assign d e => .next (s.setTask k (t.assign d (evalExpr t.temps e)).advance)
  | .halt => .next (s.setTask k { t with status := .halted })
  | .fatal => .next (s.setTask k { t with status := .fatal })
  | .ret e => .next (s.setTask k { t with status := .returned (evalExpr t.temps e) })

/-- R169: a host task is enabled while it has a next form to perform and is not held. -/
def hostEnabled (k : Nat) (s : State) : Bool :=
  match s.tasks[k]? with
  | none => false
  | some t =>
    match t.nextForm with
    | none => false
    | some f => !held s t f

/-- One step of task `k`: its next form; nothing when there is none. -/
def hostStep (k : Nat) (s : State) : Result :=
  match s.tasks[k]? with
  | none => .next s
  | some t =>
    match t.nextForm with
    | none => .next s
    | some f => hostForm k t s f

/-! ## A transaction from outside the tasks' programs -/

/-- The form that issues a transaction; a read's value goes to temporary 0. -/
def transactionForm (x : Transaction) : Form :=
  if x.write then .csrw x.offset x.width (.lit x.value.toNat) else .csrr 0 x.offset x.width

/-- A new host task that issues one transaction, and its turn at the head of the agenda (log entry 6). -/
def State.issueNext (s : State) (x : Transaction) : State :=
  { s with
    tasks := s.tasks ++ [⟨[transactionForm x], 0, [], [], .running⟩]
    agenda := .host s.tasks.length :: s.agenda }

end Sys2Proof.Machine
end

