-- ==== Sys2Proof/Machine/Reset.lean ====
section
/-! DEFINITION. 70_reset_and_hazards.md: the RST step, completion of a software reset (R177). -/

namespace Sys2Proof.Machine

/-- R177: the RST step is enabled while a reset is in progress. -/
def rstEnabled (s : State) : Bool := s.inReset

/-- R177: each frame in flight, oldest first, is emitted or not by a draw (D42). -/
def emitSome : List TxEntry → State → State
  | [], s => s
  | e :: es, s =>
    let t := { s with drawn := s.drawn + 1 }
    emitSome es (if (Config.draw s.drawn).getLsbD 0 then emitEntry t e else t)

/-- R177, R35: the RST step. Memory, the EEPROM, the fault record and, but for the frames emitted here,
`wire_out` are unchanged. -/
def rstStep (s : State) : Result :=
  .next { emitSome s.txInflight s with
    txInflight := []
    rxFifo := []
    eerdPending := false
    eerdReqAddr := 0
    regs := Csrs.reset
    inReset := false }

end Sys2Proof.Machine
end

