-- ==== Sys2Proof/Machine/Schedule.lean ====
section
/-! DEFINITION. The agents' turns (R7, R168): when an agent is enabled and what its turn does. -/

namespace Sys2Proof.Machine

/-- R168, R169: the agent of a turn is enabled. After a fault none is (R164); while a reset is in
progress no device step but RST is, and WIRE_RX only drops its frame (R131, R177). -/
def turnEnabled (s : State) (u : Turn) : Bool :=
  s.faults.isEmpty &&
    match u with
    | .host k => hostEnabled k s
    | .txf => txfEnabled s
    | .txc => txcEnabled s
    | .wireRx p => wireRxEnabled p
    | .rxd => rxdEnabled s
    | .eep => eepEnabled s
    | .rst => rstEnabled s

/-- The step of a turn's agent. -/
def turnStep (s : State) : Turn → Result
  | .host k => hostStep k s
  | .txf => txfStep s
  | .txc => txcStep s
  | .wireRx p => wireRxStep p s
  | .rxd => rxdStep s
  | .eep => eepStep s
  | .rst => rstStep s

/-- One turn: the agent's step when it is enabled, else nothing (log entry 5). -/
def runTurn (s : State) (u : Turn) : Result := if turnEnabled s u then turnStep s u else .next s

/-- R164: in a state whose fault record is not empty the run has ended, and every step answers the
recorded fault. -/
def stepFault (s : State) : Option Fault := s.faults.head?

/-- The next turn of the agenda; with none left the machine idles (log entry 5). -/
def takeTurn (s : State) : Result :=
  match s.agenda with
  | [] => .next s
  | u :: rest => runTurn { s with agenda := rest } u

end Sys2Proof.Machine
end

