-- ==== Sys2Proof/Machine/Step.lean ====
section
/-! DEFINITION. One step of the machine, and how an instruction from outside becomes its next step. -/

namespace Sys2Proof.Machine

/-- One step: nothing after a fault (R164), else the next turn of the agenda (R168; log entry 5). -/
def step (s : State) : Host.Outcome State Fault Refusal :=
  match stepFault s with
  | some f => .fault f
  | none => takeTurn s

/-- `s` with the transaction of a table word as the next form of a new host task, whose turn is next: the
very next step issues it (log entry 6). Nothing else changes. -/
def State.withFetchWord (s : State) (nbits w : Nat) : State :=
  s.issueNext (transactionOfTableWord nbits w)

end Sys2Proof.Machine
end

