-- ==== Sys2Proof/Machine/RefHost.lean ====
section
/-! DEFINITION. The reference host (44_host_protocol.md): the pseudo-instructions of R68, the sequences of
R137 to R143 as host programs, and the tasks of R145. Host software: nothing here is a device step. The host's
own addresses are the spec's (44_host_protocol.md, introduction; 95_test_vectors.md section 0); those of the
rings and buffers go through its translation V2P, an argument of the programs that use them (R8, R38). -/

namespace Sys2Proof.Machine

/-! ## Pseudo-instructions (R68) -/

/-- `csrr %t, NAME`. -/
def regRead (t : Nat) (r : Reg) : Form := .csrr t r.offset 4

/-- `csrw NAME, expr`. -/
def regWrite (r : Reg) (e : Expr) : Form := .csrw r.offset 4 e

/-- A constant. -/
def num (n : Nat) : Expr := .lit n

/-- `std [a], expr64`: the two halves, the lower address first. -/
def std (a e : Expr) : List Form :=
  [.store .word a (.slice e 31 0), .store .word (.add a (num 4)) (.slice e 63 32)]

/-- `poll %t, NAME, mask, val`, with its label. -/
def poll (l t : Nat) (r : Reg) (mask val : Nat) : List Form :=
  [.label l, regRead t r, .bne (.band (.temp t) (num mask)) (num val) l]

/-- `fill [a], n, b`. -/
def fill (a n : Nat) (b : Byte) : List Form :=
  (List.range n).map fun k => .store .byte (num (a + k)) (num b.toNat)

/-- `copy [d], [s], n`, the `k`-th byte through temporary `t + k`. -/
def copy (d s : Expr) (n t : Nat) : List Form :=
  (List.range n).flatMap fun k =>
    [.load .byte (t + k) (.add s (num k)), .store .byte (.add d (num k)) (.temp (t + k))]

/-- `copy [d], [s], %n` for a length known only when the program runs: the same loads and stores in a loop
over the counter `i`, through temporary `t`; `top` and `done` are its labels. -/
def copyLoop (top done i t : Nat) (d s : Expr) (n : Nat) : List Form :=
  [.assign i (num 0), .label top, .beq (.temp i) (.temp n) done,
    .load .byte t (.add s (.temp i)), .store .byte (.add d (.temp i)) (.temp t),
    .assign i (.add (.temp i) (num 1)), .beq (num 0) (num 0) top, .label done]

/-- `csrrmw NAME, andmask, ormask`. -/
def csrrmw (t : Nat) (r : Reg) (andMask orMask : Expr) : List Form :=
  [regRead t r, regWrite r (.bor (.band (.temp t) andMask) orMask)]

/-- `for v = 0 .. n-1 : forms`. -/
def forBelow (n : Nat) (forms : Nat → List Form) : List Form := (List.range n).flatMap forms

/-- `if c : forms`, with its label. -/
def ifForms (l : Nat) (c : Expr) (forms : List Form) : List Form := .beq c (num 0) l :: forms ++ [.label l]

/-! ## Addresses (R38)

`[a]` is a physical address (R68), and so is every address programmed into the device (R38), so both are the
translations of the host's own addresses, `v2p a`. A descriptor array and each slot's buffer are contiguous
from there (R40, duty H6). With `v2p a = a` the addresses are those of the spec's examples. (Log entry 30.) -/

/-- The TX descriptor array. -/
def refTB (v2p : Nat → Nat) : Nat := v2p 0x00100000
/-- The RX descriptor array. -/
def refRB (v2p : Nat → Nat) : Nat := v2p 0x00110000
/-- The host copy of the MAC address; the device is never given this address. -/
def refMac : Nat := 0x00090000
/-- The TX buffer of slot `s`. -/
def refTxBuf (v2p : Nat → Nat) (s : Nat) : Nat := v2p (0x00200000 + 0x800 * s)
/-- The RX buffer of slot `s`. -/
def refRxBuf (v2p : Nat → Nat) (s : Nat) : Nat := v2p (0x00300000 + 0x800 * s)
/-- `f s` for the slot `s < n` in temporary `t`: each `f s` times whether `t` holds `s`, added up. -/
def slotTable (t : Nat) (f : Nat → Nat) : Nat → Expr
  | 0 => num 0
  | n + 1 => .add (slotTable t f n)
      (.mul (.mul (.le (.temp t) (num n)) (.le (num n) (.temp t))) (num (f n)))
/-- The TX buffer of the slot in temporary `t`. -/
def refTxBufOf (v2p : Nat → Nat) (t : Nat) : Expr := slotTable t (refTxBuf v2p) 32
/-- The RX buffer of the slot in temporary `t`. -/
def refRxBufOf (v2p : Nat → Nat) (t : Nat) : Expr := slotTable t (refRxBuf v2p) 128
/-- Byte `o` of the descriptor, of the array at `base`, of the slot in temporary `t`. -/
def refDescOf (base t o : Nat) : Expr := .add (num (base + o)) (.mul (num 16) (.temp t))

/-! ## Bring-up (R138 to R141) -/

/-- R140: where the MAC address comes from: the EEPROM, or, in the "fallback/test mode", a host constant. In
that mode `MAC[k]` is written as a constant, and no byte at `refMac` is read (log entry 32). -/
inductive MacSource where
  | eeprom
  | fixed (mac : Vector Byte 6)
deriving DecidableEq, Repr

/-- R138: the status check; `bad` is the label of `bringup_fault`. The host requires the documented value, the
default of LINK_STATUS, so a machine whose LINK_STATUS is another takes the fatal path with the ring bases still
unwritten (R138; 95_test_vectors.md W7). -/
def statusCheck (bad : Nat) : List Form :=
  [regRead 0 .status, .bne (.temp 0) (num Config.linkStatusDefault.toNat) bad]

/-- R139: TX ring initialisation, `N_t = 32`. -/
def txRingInit (v2p : Nat → Nat) : List Form :=
  fill (refTB v2p) 512 0#8 ++
  forBelow 32 (fun s => fill (refTxBuf v2p s) 0x800 0#8) ++
  forBelow 32 (fun s => [.store .byte (num (refTB v2p + 16 * s + 12)) (num 0x01)]) ++
  [regWrite .tdbal (num (refTB v2p)), regWrite .tdbah (num 0), regWrite .tdlen (num 0x200),
    regWrite .tdh (num 0), regWrite .tdt (num 0), regWrite .tctl (num 0x0004010A),
    regWrite .tipg (num 0x0060200A)]

/-- R140: MAC read through the EEPROM, words 0 to 2; the polls' labels are `l`, `l + 1`, `l + 2`. In the
fallback mode the rule is skipped. -/
def macRead (mac : MacSource) (l : Nat) : List Form :=
  match mac with
  | .fixed _ => []
  | .eeprom =>
    forBelow 3 fun k =>
      csrrmw 0 .eecd (.bnot (num 0x000000C0)) (num 0) ++
      [regWrite .eerd (.bor (.shl (num k) 8) (num 1))] ++
      poll (l + k) 1 .eerd 0x00000010 0x00000010 ++
      [.store .byte (num (refMac + 2 * k)) (.slice (.temp 1) 23 16),
        .store .byte (num (refMac + 2 * k + 1)) (.slice (.temp 1) 31 24)]

/-- The loads of the six bytes at `MAC` into temporaries 10 to 15; none when MAC is a host constant. -/
def macLoads (mac : MacSource) : List Form :=
  match mac with
  | .fixed _ => []
  | .eeprom => forBelow 6 fun k => [.load .byte (10 + k) (num (refMac + k))]

/-- R140: `MAC[k]`, after `macLoads`. -/
def macByte (mac : MacSource) (k : Nat) : Expr :=
  match mac with
  | .fixed m => num (m.toList.getD k 0#8).toNat
  | .eeprom => .temp (10 + k)

/-- R140: `get_mac(out_buffer)` copies the 6-byte address at `MAC`, or the constant, to `out`, with no device
access. Its result, which the spec does not give, is 0 (log entry 32). -/
def getMacProgram (mac : MacSource) (out : Nat) : List Form :=
  (match mac with
    | .eeprom => copy (num out) (num refMac) 6 100
    | .fixed _ => forBelow 6 fun k => [.store .byte (num (out + k)) (macByte mac k)]) ++
  [.ret (num 0)]

/-- R141: RX ring initialisation, `N_r = 128`, after the MAC is known. DESIGN CHOICE (log entry 27): an
expression of R68 has no memory operand, so the six bytes `MAC[i]` that R141 writes inside the RAL and RAH
values are loaded by six forms of their own, all before the RAL write. -/
def rxRingInit (v2p : Nat → Nat) (mac : MacSource) (sentinel : Byte) : List Form :=
  macLoads mac ++
  [regWrite (.ral 0#4) (.bor (macByte mac 0)
      (.bor (.shl (macByte mac 1) 8) (.bor (.shl (macByte mac 2) 16) (.shl (macByte mac 3) 24)))),
    regWrite (.rah 0#4) (.bor (macByte mac 4) (.bor (.shl (macByte mac 5) 8) (.shl (num 1) 31)))] ++
  forBelow 128 (fun i => [regWrite (.mta (BitVec.ofNat 7 i)) (num 0)]) ++
  fill (refRB v2p) 2048 0#8 ++
  forBelow 128 (fun s =>
    fill (refRxBuf v2p s) 2048 sentinel ++ std (num (refRB v2p + 16 * s)) (num (refRxBuf v2p s))) ++
  [regWrite .rdbal (num (refRB v2p)), regWrite .rdbah (num 0), regWrite .rdlen (num 0x800),
    regWrite .rdh (num 0), regWrite .rdt (num 127), regWrite .rctl (num 0x04008002)]

/-- R137: `enable`, the status check, the TX ring, the MAC, the RX ring, then `return 0`. -/
def enableProgram (v2p : Nat → Nat) (mac : MacSource) (sentinel : Byte) : List Form :=
  statusCheck 0 ++ txRingInit v2p ++ macRead mac 1 ++ rxRingInit v2p mac sentinel ++
  [.ret (num 0), .label 0, .fatal]

/-! ## Steady state (R142, R143) -/

/-- R142: `transmit(buffer, size)`; `einval` is the magnitude of the host's error code (D50). -/
def transmitProgram (v2p : Nat → Nat) (einval buffer : Nat) (size : Int) : List Form :=
  if size ≤ 0 ∨ 1518 < size then [.ret (.lit (-(einval : Int)))]
  else
    let desc := refDescOf (refTB v2p) 1
    [regRead 0 .tdt, .assign 1 (.slice (.temp 0) 15 0), .assign 7 (refTxBufOf v2p 1),
      .load .byte 2 (desc 12), .beq (.band (.temp 2) (num 1)) (num 0) 0] ++
    copy (.temp 7) (num buffer) size.toNat 100 ++
    std (desc 0) (.temp 7) ++
    [.store .half (desc 8) (.lit size), .store .byte (desc 11) (num 0x09),
      .store .byte (desc 12) (num 0x00),
      regWrite .tdt (.mod (.add (.temp 1) (num 1)) (num 32)), .ret (.lit size),
      .label 0, .ret (num 0)]

/-- R143: `receive(buffer, max_size)`. -/
def receiveProgram (v2p : Nat → Nat) (einval buffer : Nat) (maxSize : Int) : List Form :=
  if maxSize ≤ 0 ∨ 2048 < maxSize then [.ret (.lit (-(einval : Int)))]
  else
    let desc := refDescOf (refRB v2p) 1
    [regRead 0 .rdt, .assign 1 (.mod (.add (.slice (.temp 0) 15 0) (num 1)) (num 128)),
      .assign 7 (refRxBufOf v2p 1),
      .load .byte 2 (desc 12), .beq (.band (.temp 2) (num 1)) (num 0) 0,
      .beq (.band (.temp 2) (num 2)) (num 0) 1, .load .half 3 (desc 8)] ++
    copyLoop 2 3 4 5 (num buffer) (.temp 7) 3 ++
    std (desc 0) (.temp 7) ++
    [.load .word 6 (desc 0), .bne (.temp 6) (.temp 7) 1,
      .store .half (desc 8) (num 0), .store .half (desc 10) (num 0),
      .store .byte (desc 12) (num 0), regWrite .rdt (.temp 1), .ret (.temp 3),
      .label 0, .ret (num 0), .label 1, .fatal]

/-! ## The reference host's tasks (R145) -/

/-- R152: a call written inline: `return v` assigns `v` to temporary `r` and goes on after the call, at label
`l`; the call's own label `m` becomes `l + 1 + m`. -/
def inlineCall (l r : Nat) (body : List Form) : List Form :=
  body.flatMap (fun f =>
    match f with
    | .ret e => [.assign r e, .beq (num 0) (num 0) l]
    | .label m => [.label (l + 1 + m)]
    | .beq x y m => [.beq x y (l + 1 + m)]
    | .bne x y m => [.bne x y (l + 1 + m)]
    | f => [f]) ++
  [.label l]

/-- Calls, each with labels below 7, written one after the other, the result of each in temporary `r`; the
labels from `l` on are theirs. -/
def inlineCalls (r : Nat) : Nat → List (List Form) → List Form
  | _, [] => []
  | l, body :: bodies => inlineCall l r body ++ inlineCalls r (l + 8) bodies

/-- R145: a task that makes its calls again and again. -/
def repeatCalls (r : Nat) (bodies : List (List Form)) : List Form :=
  .label 0 :: inlineCalls r 1 bodies ++ [.beq (num 0) (num 0) 0]

/-- R145: the reference host: where its MAC comes from, its error code, and the arguments `(buffer, size)` of
the calls its two tasks make, which the network stack outside the block chooses. (Log entry 31.) -/
structure RefHost where
  mac : MacSource
  einval : Nat
  sends : List (Nat × Int)
  receives : List (Nat × Int)
deriving DecidableEq, Repr

/-- R145: the task that repeatedly calls `transmit`. -/
def RefHost.transmitLoop (h : RefHost) (v2p : Nat → Nat) : List Form :=
  repeatCalls 8 (h.sends.map fun c => transmitProgram v2p h.einval c.1 c.2)

/-- R145: the task that repeatedly calls `receive`. -/
def RefHost.receiveLoop (h : RefHost) (v2p : Nat → Nat) : List Form :=
  repeatCalls 8 (h.receives.map fun c => receiveProgram v2p h.einval c.1 c.2)

/-- A task that will run a program from its first form. -/
def startTask (code : List Form) : Task := ⟨code, 0, [], [], .running⟩

/-- R145: the reference host with its bring-up task as the next task of the host. -/
def State.startBringUp (s : State) (h : RefHost) (v2p : Nat → Nat) : State :=
  { s with tasks := s.tasks ++ [startTask (enableProgram v2p h.mac s.params.rxSentinel)] }

/-- R145: once the bring-up task, task `k`, has returned 0, the reference host's transmit task and receive task
beside it; before, or when it ended otherwise, nothing. (Log entry 31.) -/
def State.startSteady (s : State) (h : RefHost) (v2p : Nat → Nat) (k : Nat) : State :=
  if (s.tasks[k]?).map Task.status = some (.returned 0) then
    { s with tasks := s.tasks ++ [startTask (h.transmitLoop v2p), startTask (h.receiveLoop v2p)] }
  else s

end Sys2Proof.Machine
end

