-- ==== Sys2Proof/Safety.lean ====
section
/-! DEFINITION. What counts as a safe run (R136, R164), and the runs of the agents under the fairness of
R169, which a single deterministic step cannot show (log entry 19). -/

namespace Sys2Proof.Machine

/-! ## Fault-free runs -/

/-- A run of `k` steps meets no model fault. -/
def faultFree (s : State) (k : Nat) : Prop := ∀ f, Host.Core.run Sys2Proof.core k s ≠ .fault f

/-- The host duties of R136. -/
inductive Duty where
  | h1
  | h2
  | h3
  | h4
  | h5
  | h6
  | h7
  | h8
  | h9
  | h10
  | h11
deriving DecidableEq, Repr

/-- R136: the duty a fault shows broken, by the table's last column; none where the table names no duty. -/
def Fault.duty : Fault → Option Duty
  | .csrBadWidth .. => some .h1
  | .csrOutOfWindow .. => some .h1
  | .csrMisaligned .. => some .h1
  | .csrUndocumented .. => some .h1
  | .csrWriteWhileEnabled .. => some .h2
  | .ownershipViolation .. => some .h4
  | .txTailOutOfRange .. => some .h5
  | .txTailRetract .. => some .h5
  | .rxTailOutOfRange .. => some .h5
  | .rxTailRetract .. => some .h5
  | .csrReadUndefined .. => some .h11
  | _ => none

/-! ## The invariant every step keeps -/

/-- R74, R17: a stored CTRL holds no refused bit. -/
abbrev Ctrl.legal (c : Ctrl) : Prop :=
  c.lrst ≠ some 1#1 ∧ c.rfce ≠ some 1#1 ∧ c.tfce ≠ some 1#1 ∧ c.vme ≠ some 1#1 ∧ c.phyRst ≠ some 1#1

/-- R112, R23: a stored RCTL holds no refused field value. -/
abbrev Rctl.legal (r : Rctl) : Prop :=
  r.lbm = 0#2 ∧ r.rdmts ≠ 3#2 ∧ r.vfe = false ∧ r.cfien = false ∧ ¬(r.bsex = true ∧ r.bsize = 0#2)

/-- R126: a stored RAH selects the destination address, or was never written. -/
abbrev RaEntry.legal (e : RaEntry) : Prop := e.asel = none ∨ e.asel = some 0#2

/-- R106: what a fetch checked of an entry in flight: its descriptor is a slot of the ring, and descriptor
and buffer lie in memory. -/
abbrev TxEntry.legal (s : State) (e : TxEntry) : Prop :=
  e.slot.toNat < s.regs.tx.slots ∧
  s.regs.tx.base = some (e.daddr.toNat - 16 * e.slot.toNat) ∧ 16 * e.slot.toNat ≤ e.daddr.toNat ∧
  e.daddr.toNat + 16 ≤ s.params.memBytes ∧
  1 ≤ e.frame.length ∧ e.frame.length ≤ Config.txDescMaxLen ∧
  e.baddr.toNat + e.frame.length ≤ s.params.memBytes

/-- The legal register values and hidden state: refused values are never stored (R66, R71), the queues keep
their bounds (R29), a pending EEPROM read is not done (R88, R89), memory is canonical and inside MEM_BYTES. -/
abbrev State.Legal (s : State) : Prop :=
  s.params.wellFormed = true ∧
  Memory.wf s.mem = true ∧ Memory.below s.params.memBytes s.mem ∧
  s.regs.ctrl.legal ∧ s.regs.rctl.legal ∧ s.regs.tctl.swxoff = false ∧
  (∀ e ∈ s.regs.ra.toList, e.legal) ∧
  (s.eerdPending = true → s.regs.eerdDone = false) ∧
  s.txInflight.length ≤ s.params.txInflightMax ∧ (∀ e ∈ s.txInflight, e.legal s) ∧
  s.rxFifo.length ≤ s.params.rxFifoFrames ∧
  (∀ q ∈ s.rxFifo, Config.minFrame ≤ q.length ∧ q.length ≤ Config.rxMaxLpe + 4)

/-! ## Runs and fairness (R168, R169) -/

/-- A run under a schedule: each state is the last one after the turn's agent moved. -/
def isRun (schedule : Nat → Turn) (states : Nat → State) : Prop :=
  ∀ n, runTurn (states n) (schedule n) = .next (states (n + 1))

/-- A turn is weakly fair: enabled from some point on, it is taken again and again. -/
def weaklyFair (schedule : Nat → Turn) (states : Nat → State) (u : Turn) : Prop :=
  ∀ n, (∀ m, n ≤ m → turnEnabled (states m) u = true) → ∃ m, n ≤ m ∧ schedule m = u

/-- R169, R89: EEP is weakly fair while EE_REQ = 0, and not fair while it is 1. -/
def eepFair (schedule : Nat → Turn) (states : Nat → State) : Prop :=
  ∀ n, (∀ m, n ≤ m → turnEnabled (states m) .eep = true ∧ (states m).regs.eeReq = false) →
    ∃ m, n ≤ m ∧ schedule m = .eep

/-- R169: TXF, TXC, RXD, RST and every host task are weakly fair, EEP conditionally; WIRE_RX is not fair. -/
def fairRun (schedule : Nat → Turn) (states : Nat → State) : Prop :=
  isRun schedule states ∧
    weaklyFair schedule states .txf ∧ weaklyFair schedule states .txc ∧
    weaklyFair schedule states .rxd ∧ weaklyFair schedule states .rst ∧
    (∀ k, weaklyFair schedule states (.host k)) ∧ eepFair schedule states

end Sys2Proof.Machine
end

