-- ==== Sys2Proof/Certificates/Slice0/Obligations.lean ====
section
/-! DEFINITION. The statements for the provers. A register rule is stated as an equation on `exec`: the
next state it answers, with every field it does not name unchanged. A value a CSR read returns stands in
`busData`; a draw is any value, so a statement about a read says `∃ v k`, the value and the number of draws
made, and fixes only the bits the rule gives. -/

open Sys2Proof Sys2Proof.Machine

/-! ## Encoding and decoding -/

/-- The decoder reads back every instruction the encoder writes, whatever bytes follow. -/
def Obligations.DecodeOfEncodeGivesBack : Prop :=
  ∀ (i : Instr) (rest : List Byte), decode (encode i ++ rest) = .ok (i, rest)

/-- What decodes is the encoding of the instruction it decodes to: no bit of a word is ignored. -/
def Obligations.DecodedBytesAreTheEncoding : Prop :=
  ∀ (bytes rest : List Byte) (i : Instr), decode bytes = .ok (i, rest) → bytes = encode i ++ rest

/-- Words written out from R58's offsets: CTRL, STATUS, ICS, EERD, TDT, RDT, MTA[127], RAH[15]. The key and
data words are R56's and R58's; their layout in bytes, each a 32-bit little-endian word, is the model's choice
(log entry 7). -/
def Obligations.SampleWordsDecode : Prop :=
  decode [0x00, 0x00, 0x02, 0x00, 0x41, 0x00, 0x00, 0x00] = .ok (.csrwCtrl 0x00000041#32, []) ∧
  decode [0x08, 0x00, 0x00, 0x00] = .ok (.csrrStatus, []) ∧
  decode [0xC8, 0x00, 0x02, 0x00, 0x04, 0x00, 0x00, 0x00] = .ok (.csrwIcs 0x00000004#32, []) ∧
  decode [0x14, 0x00, 0x02, 0x00, 0x01, 0x02, 0x00, 0x00] = .ok (.csrwEerd 0x00000201#32, []) ∧
  decode [0x18, 0x38, 0x02, 0x00, 0x01, 0x00, 0x00, 0x00] = .ok (.csrwTdt 0x00000001#32, []) ∧
  decode [0x18, 0x28, 0x00, 0x00] = .ok (.csrrRdt, []) ∧
  decode [0xFC, 0x53, 0x02, 0x00, 0x00, 0x00, 0x00, 0x80] = .ok (.csrwMta 127#7 0x80000000#32, []) ∧
  decode [0x7C, 0x54, 0x00, 0x00] = .ok (.csrrRah 15#4, [])

/-! ## One step -/

/-- R69: the checks of a CSR transaction in order, each deciding before the next, then the hold, then the
register's rule. A bad access faults even during a reset; a good one is then not enabled. -/
def Obligations.TransactionChecksInOrder : Prop :=
  ∀ (s : State) (k : Nat) (t : Task) (f : Form) (x : Transaction),
    s.tasks[k]? = some t → t.nextForm = some f → formTransaction t.temps f = some x →
    (x.width ≠ 4 →
      hostEnabled k s = true ∧ hostStep k s = .fault (.csrBadWidth x.offset x.width)) ∧
    (x.width = 4 → 0x20000 ≤ x.offset →
      hostEnabled k s = true ∧ hostStep k s = .fault (.csrOutOfWindow x.offset)) ∧
    (x.width = 4 → x.offset < 0x20000 → x.offset % 4 ≠ 0 →
      hostEnabled k s = true ∧ hostStep k s = .fault (.csrMisaligned x.offset)) ∧
    (x.width = 4 → x.offset < 0x20000 → x.offset % 4 = 0 → (∀ r : Reg, r.offset ≠ x.offset) →
      hostEnabled k s = true ∧ hostStep k s = .fault (.csrUndocumented x.offset)) ∧
    (∀ i : Instr, x.width = 4 → i.reg.offset = x.offset →
      i.data = (if x.write then some x.value else none) →
      (s.inReset = true → hostEnabled k s = false) ∧
      (s.inReset = false →
        hostEnabled k s = true ∧
        hostStep k s =
          andThen (exec i s) fun u => .next (u.setTask k (t.receive (formDest f) u.busData).advance)))

/-- The step runs the decoded instruction: when it is task `k`'s turn and the key word and data word of
its transaction decode to `i`, the step is `exec i` with the turn taken, and the task takes the value read
and goes to its next form. -/
def Obligations.StepRunsTheDecodedTransaction : Prop :=
  ∀ (s : State) (k : Nat) (rest : List Turn) (t : Task) (f : Form) (x : Transaction) (i : Instr),
    s.faults = [] → s.inReset = false → s.agenda = .host k :: rest →
    s.tasks[k]? = some t → t.nextForm = some f → formTransaction t.temps f = some x →
    x.width = 4 → x.offset < 0x20000 →
    decode (bytesOfWord (BitVec.ofNat 32 (x.offset + if x.write then 0x20000 else 0)) ++
      (if x.write then bytesOfWord x.value else [])) = .ok (i, []) →
    step s =
      match exec i { s with agenda := rest } with
      | .next u => .next (u.setTask k (t.receive (formDest f) u.busData).advance)
      | .fault e => .fault e
      | .refused e => .refused e

/-- The step after `withFetchWord` runs the instruction the table word decodes to, in a new host task. -/
def Obligations.FetchedTableWordRuns : Prop :=
  ∀ (s : State) (nbits w : Nat) (i : Instr),
    s.faults = [] → s.inReset = false → decodeTableWord nbits w = some i →
    let x := transactionOfTableWord nbits w
    let t : Task := ⟨[transactionForm x], 0, [], [], .running⟩
    step (s.withFetchWord nbits w) =
      andThen (exec i { s with tasks := s.tasks ++ [t] }) fun u =>
        .next (u.setTask s.tasks.length (t.receive (if x.write then none else some 0) u.busData).advance)

/-- R47: the frame of every CSR transaction. None touches memory, the queues, the link, the parameters, the
tasks; a read changes no register but ICR; a write returns no value. -/
def Obligations.TransactionsTouchOnlyRegisters : Prop :=
  ∀ (i : Instr) (s t : State), exec i s = .next t →
    t.params = s.params ∧ t.mem = s.mem ∧ t.txInflight = s.txInflight ∧ t.rxFifo = s.rxFifo ∧
    t.wireOut = s.wireOut ∧ t.faults = s.faults ∧ t.tasks = s.tasks ∧ t.agenda = s.agenda ∧
    (i.data = none →
      t.inReset = s.inReset ∧ t.eerdPending = s.eerdPending ∧ t.eerdReqAddr = s.eerdReqAddr ∧
      { t.regs with icr := s.regs.icr } = s.regs ∧ (i ≠ .csrrIcr → t.regs = s.regs)) ∧
    (i.data ≠ none → t.busData = s.busData ∧ t.drawn = s.drawn) ∧
    (i.reg ≠ .ctrl → t.inReset = s.inReset) ∧
    (i.reg ≠ .eerd → t.eerdPending = s.eerdPending ∧ t.eerdReqAddr = s.eerdReqAddr)

/-! ## CTRL and STATUS -/

/-- R73: a read of CTRL gives the ST fields as stored and RST = 0, or faults while one is `⊥`. -/
def Obligations.CtrlReadGivesStoredFields : Prop :=
  Instr.key .csrrCtrl = 0x00000#18 ∧
  ∀ s : State,
    (∀ fd lrst asde slu ilos speed frcspd frcdplx d0 d1 wuc phy io0 io1 rfce tfce vme prst,
      s.regs.ctrl = ⟨some fd, some lrst, some asde, some slu, some ilos, some speed, some frcspd,
        some frcdplx, some d0, some d1, some wuc, some phy, some io0, some io1, some rfce, some tfce,
        some vme, some prst⟩ →
      ∃ v k, exec .csrrCtrl s = .next { s with busData := v, drawn := k } ∧
        v.extractLsb' 0 1 = fd ∧ v.extractLsb' 3 1 = lrst ∧ v.extractLsb' 5 1 = asde ∧
        v.extractLsb' 6 1 = slu ∧ v.extractLsb' 7 1 = ilos ∧ v.extractLsb' 8 2 = speed ∧
        v.extractLsb' 11 1 = frcspd ∧ v.extractLsb' 12 1 = frcdplx ∧ v.extractLsb' 18 1 = d0 ∧
        v.extractLsb' 19 1 = d1 ∧ v.extractLsb' 20 1 = wuc ∧ v.extractLsb' 21 1 = phy ∧
        v.extractLsb' 22 1 = io0 ∧ v.extractLsb' 23 1 = io1 ∧ v.extractLsb' 26 1 = 0#1 ∧
        v.extractLsb' 27 1 = rfce ∧ v.extractLsb' 28 1 = tfce ∧ v.extractLsb' 30 1 = vme ∧
        v.extractLsb' 31 1 = prst) ∧
    ((s.regs.ctrl.fd = none ∨ s.regs.ctrl.lrst = none ∨ s.regs.ctrl.asde = none ∨
        s.regs.ctrl.slu = none ∨ s.regs.ctrl.ilos = none ∨ s.regs.ctrl.speed = none ∨
        s.regs.ctrl.frcspd = none ∨ s.regs.ctrl.frcdplx = none ∨ s.regs.ctrl.sdp0Data = none ∨
        s.regs.ctrl.sdp1Data = none ∨ s.regs.ctrl.advd3wuc = none ∨ s.regs.ctrl.enPhyPwrMgmt = none ∨
        s.regs.ctrl.sdp0Iodir = none ∨ s.regs.ctrl.sdp1Iodir = none ∨ s.regs.ctrl.rfce = none ∨
        s.regs.ctrl.tfce = none ∨ s.regs.ctrl.vme = none ∨ s.regs.ctrl.phyRst = none) →
      exec .csrrCtrl s = .fault (.csrReadUndefined 0x00000))

/-- R74: a write of CTRL stores the ST fields and, with RST = 1, starts a software reset; LRST, RFCE, TFCE,
VME and PHY_RST are refused. -/
def Obligations.CtrlWriteStoresOrStartsReset : Prop :=
  ∀ (s : State) (v : Word),
    Instr.key (.csrwCtrl v) = 0x20000#18 ∧
    ((v.getLsbD 3 = true ∨ v.getLsbD 27 = true ∨ v.getLsbD 28 = true ∨ v.getLsbD 30 = true ∨
        v.getLsbD 31 = true) →
      exec (.csrwCtrl v) s = .fault (.csrValueUnsupported 0x00000 v)) ∧
    (v.getLsbD 3 = false → v.getLsbD 27 = false → v.getLsbD 28 = false → v.getLsbD 30 = false →
      v.getLsbD 31 = false →
      exec (.csrwCtrl v) s = .next { s with
        regs := { s.regs with ctrl :=
          { fd := some (v.extractLsb' 0 1), lrst := some 0#1, asde := some (v.extractLsb' 5 1),
            slu := some (v.extractLsb' 6 1), ilos := some (v.extractLsb' 7 1),
            speed := some (v.extractLsb' 8 2), frcspd := some (v.extractLsb' 11 1),
            frcdplx := some (v.extractLsb' 12 1), sdp0Data := some (v.extractLsb' 18 1),
            sdp1Data := some (v.extractLsb' 19 1), advd3wuc := some (v.extractLsb' 20 1),
            enPhyPwrMgmt := some (v.extractLsb' 21 1), sdp0Iodir := some (v.extractLsb' 22 1),
            sdp1Iodir := some (v.extractLsb' 23 1), rfce := some 0#1, tfce := some 0#1,
            vme := some 0#1, phyRst := some 0#1 } }
        inReset := if v.getLsbD 26 then true else s.inReset })

/-- R75, R76: STATUS reads as LINK_STATUS in every state, and a write of it changes nothing. -/
def Obligations.StatusReadsLinkStatusAndIgnoresWrites : Prop :=
  Instr.key .csrrStatus = 0x00008#18 ∧
  ∀ (s : State) (v : Word),
    Instr.key (.csrwStatus v) = 0x20008#18 ∧
    exec .csrrStatus s = .next { s with busData := s.params.linkStatus } ∧
    exec (.csrwStatus v) s = .next s

/-! ## Interrupt causes and mask -/

/-- R77: a read of ICR returns the causes and clears every one. -/
def Obligations.IcrReadReturnsAndClears : Prop :=
  Instr.key .csrrIcr = 0x000C0#18 ∧
  ∀ s : State, ∃ v k,
    exec .csrrIcr s = .next { s with regs := { s.regs with icr := 0#17 }, busData := v, drawn := k } ∧
    v.extractLsb' 0 17 = s.regs.icr

/-- R78, R80: a write of ICR clears, and a write of ICS sets, the causes written as 1. -/
def Obligations.CauseWritesClearAndSet : Prop :=
  ∀ (s : State) (v : Word),
    Instr.key (.csrwIcr v) = 0x200C0#18 ∧ Instr.key (.csrwIcs v) = 0x200C8#18 ∧
    exec (.csrwIcr v) s =
      .next { s with regs := { s.regs with icr := s.regs.icr &&& ~~~(v.extractLsb' 0 17) } } ∧
    exec (.csrwIcs v) s =
      .next { s with regs := { s.regs with icr := s.regs.icr ||| v.extractLsb' 0 17 } }

/-- R81, R82, R84: IMS reads the mask, a write of IMS sets and a write of IMC clears its bits. -/
def Obligations.MaskReadSetAndClear : Prop :=
  Instr.key .csrrIms = 0x000D0#18 ∧
  ∀ (s : State) (v : Word),
    Instr.key (.csrwIms v) = 0x200D0#18 ∧ Instr.key (.csrwImc v) = 0x200D8#18 ∧
    (∃ u k, exec .csrrIms s = .next { s with busData := u, drawn := k } ∧
      u.extractLsb' 0 17 = s.regs.imask) ∧
    exec (.csrwIms v) s =
      .next { s with regs := { s.regs with imask := s.regs.imask ||| v.extractLsb' 0 17 } } ∧
    exec (.csrwImc v) s =
      .next { s with regs := { s.regs with imask := s.regs.imask &&& ~~~(v.extractLsb' 0 17) } }

/-- R79, R83: a read of ICS or IMC faults in every state. -/
def Obligations.WriteOnlyReadsFault : Prop :=
  Instr.key .csrrIcs = 0x000C8#18 ∧ Instr.key .csrrImc = 0x000D8#18 ∧
  ∀ s : State,
    exec .csrrIcs s = .fault (.csrReadWriteOnly 0x000C8) ∧
    exec .csrrImc s = .fault (.csrReadWriteOnly 0x000D8)

/-- R167: the interrupt line is high exactly when a cause is pending that the mask enables. -/
def Obligations.InterruptLineIsLevelOfEnabledCauses : Prop :=
  ∀ s : State, intr s = true ↔ ∃ c, c < 17 ∧ s.regs.icr.getLsbD c = true ∧ s.regs.imask.getLsbD c = true

/-! ## EEPROM -/

/-- R85, R86: EECD reads EE_REQ at bits 6 and 7 and 1 at bit 8; a write stores bit 6 and ignores the rest. -/
def Obligations.EecdReadAndWrite : Prop :=
  Instr.key .csrrEecd = 0x00010#18 ∧
  ∀ (s : State) (v : Word),
    Instr.key (.csrwEecd v) = 0x20010#18 ∧
    (∃ u k, exec .csrrEecd s = .next { s with busData := u, drawn := k } ∧
      u.getLsbD 6 = s.regs.eeReq ∧ u.getLsbD 7 = s.regs.eeReq ∧ u.getLsbD 8 = true) ∧
    exec (.csrwEecd v) s = .next { s with regs := { s.regs with eeReq := v.getLsbD 6 } }

/-- R87, R88: EERD reads DONE and ADDR, and DATA when no read is pending; a write stores ADDR, and with
START = 1 starts a read of that word and clears DONE. -/
def Obligations.EerdReadAndWrite : Prop :=
  Instr.key .csrrEerd = 0x00014#18 ∧
  ∀ (s : State) (v : Word),
    Instr.key (.csrwEerd v) = 0x20014#18 ∧
    (∃ u k, exec .csrrEerd s = .next { s with busData := u, drawn := k } ∧
      u.getLsbD 4 = s.regs.eerdDone ∧ u.extractLsb' 8 8 = s.regs.eerdAddr ∧
      (s.eerdPending = false → u.extractLsb' 16 16 = s.regs.eerdData)) ∧
    (v.getLsbD 0 = true →
      exec (.csrwEerd v) s = .next { s with
        regs := { s.regs with eerdAddr := v.extractLsb' 8 8, eerdDone := false }
        eerdPending := true
        eerdReqAddr := v.extractLsb' 8 8 }) ∧
    (v.getLsbD 0 = false →
      exec (.csrwEerd v) s = .next { s with regs := { s.regs with eerdAddr := v.extractLsb' 8 8 } })

/-- R89, without its fairness: the EEP step is enabled while a read is pending and no reset is in progress,
and completes it with the EEPROM's word, or with any value beyond the EEPROM's 64 words. -/
def Obligations.EepStepCompletesRead : Prop :=
  ∀ s : State,
    (turnEnabled s .eep = true ↔ s.faults = [] ∧ s.eerdPending = true ∧ s.inReset = false) ∧
    (∀ h : s.eerdReqAddr.toNat < 64,
      turnStep s .eep = .next { s with
        regs := { s.regs with eerdData := s.params.eeprom[s.eerdReqAddr.toNat], eerdDone := true }
        eerdPending := false }) ∧
    (64 ≤ s.eerdReqAddr.toNat → ∃ w k,
      turnStep s .eep = .next { s with
        regs := { s.regs with eerdData := w, eerdDone := true }
        eerdPending := false
        drawn := k })

/-- R89, R169, R91: in a fair run that keeps EE_REQ = 0, meets no fault and no reset, a pending EEPROM read
completes: at some later point DONE = 1 and nothing is pending. -/
def Obligations.PendingEepromReadCompletesInFairRun : Prop :=
  ∀ (schedule : Nat → Turn) (states : Nat → State) (n : Nat),
    fairRun schedule states →
    (∀ m, n ≤ m → (states m).faults = [] ∧ (states m).inReset = false ∧ (states m).regs.eeReq = false) →
    (states n).eerdPending = true →
    ∃ m, n < m ∧ (states m).eerdPending = false ∧ (states m).regs.eerdDone = true

/-! ## TCTL and TIPG -/

/-- R92, R93: a read of TCTL gives its fields as stored, or faults while CT, COLD or RTLC is `⊥`; a write
stores them, and SWXOFF = 1 is refused. -/
def Obligations.TctlReadAndWrite : Prop :=
  Instr.key .csrrTctl = 0x00400#18 ∧
  ∀ (s : State) (v : Word),
    Instr.key (.csrwTctl v) = 0x20400#18 ∧
    (∀ ct cold rtlc, s.regs.tctl.ct = some ct → s.regs.tctl.cold = some cold →
      s.regs.tctl.rtlc = some rtlc →
      ∃ u k, exec .csrrTctl s = .next { s with busData := u, drawn := k } ∧
        u.getLsbD 1 = s.regs.tctl.en ∧ u.getLsbD 3 = s.regs.tctl.psp ∧ u.extractLsb' 4 8 = ct ∧
        u.extractLsb' 12 10 = cold ∧ u.getLsbD 22 = s.regs.tctl.swxoff ∧ u.extractLsb' 24 1 = rtlc) ∧
    ((s.regs.tctl.ct = none ∨ s.regs.tctl.cold = none ∨ s.regs.tctl.rtlc = none) →
      exec .csrrTctl s = .fault (.csrReadUndefined 0x00400)) ∧
    (v.getLsbD 22 = true → exec (.csrwTctl v) s = .fault (.csrValueUnsupported 0x00400 v)) ∧
    (v.getLsbD 22 = false →
      exec (.csrwTctl v) s = .next { s with regs := { s.regs with tctl :=
        { en := v.getLsbD 1, psp := v.getLsbD 3, ct := some (v.extractLsb' 4 8),
          cold := some (v.extractLsb' 12 10), swxoff := false, rtlc := some (v.extractLsb' 24 1) } } })

/-- R94, R95: TIPG reads back its three fields, or faults while one is `⊥`; a write stores them. -/
def Obligations.TipgReadAndWrite : Prop :=
  Instr.key .csrrTipg = 0x00410#18 ∧
  ∀ (s : State) (v : Word),
    Instr.key (.csrwTipg v) = 0x20410#18 ∧
    (∀ t r1 r2, s.regs.tipg = ⟨some t, some r1, some r2⟩ →
      ∃ u k, exec .csrrTipg s = .next { s with busData := u, drawn := k } ∧
        u.extractLsb' 0 10 = t ∧ u.extractLsb' 10 10 = r1 ∧ u.extractLsb' 20 10 = r2) ∧
    ((s.regs.tipg.ipgt = none ∨ s.regs.tipg.ipgr1 = none ∨ s.regs.tipg.ipgr2 = none) →
      exec .csrrTipg s = .fault (.csrReadUndefined 0x00410)) ∧
    exec (.csrwTipg v) s = .next { s with regs := { s.regs with tipg :=
      ⟨some (v.extractLsb' 0 10), some (v.extractLsb' 10 10), some (v.extractLsb' 20 10)⟩ } }

/-! ## Ring registers -/

/-- R96, R98, R113, R115: a read of a ring base half gives what is stored (bits 3:0 of the low half are
draws), or faults while it is `⊥`. -/
def Obligations.RingBaseReads : Prop :=
  Instr.key .csrrTdbal = 0x03800#18 ∧ Instr.key .csrrTdbah = 0x03804#18 ∧
  Instr.key .csrrRdbal = 0x02800#18 ∧ Instr.key .csrrRdbah = 0x02804#18 ∧
  ∀ s : State,
    (∀ lo, s.regs.tx.dbal = some lo →
      ∃ v k, exec .csrrTdbal s = .next { s with busData := v, drawn := k } ∧ v.extractLsb' 4 28 = lo) ∧
    (s.regs.tx.dbal = none → exec .csrrTdbal s = .fault (.csrReadUndefined 0x03800)) ∧
    (∀ hi, s.regs.tx.dbah = some hi → exec .csrrTdbah s = .next { s with busData := hi }) ∧
    (s.regs.tx.dbah = none → exec .csrrTdbah s = .fault (.csrReadUndefined 0x03804)) ∧
    (∀ lo, s.regs.rx.dbal = some lo →
      ∃ v k, exec .csrrRdbal s = .next { s with busData := v, drawn := k } ∧ v.extractLsb' 4 28 = lo) ∧
    (s.regs.rx.dbal = none → exec .csrrRdbal s = .fault (.csrReadUndefined 0x02800)) ∧
    (∀ hi, s.regs.rx.dbah = some hi → exec .csrrRdbah s = .next { s with busData := hi }) ∧
    (s.regs.rx.dbah = none → exec .csrrRdbah s = .fault (.csrReadUndefined 0x02804))

/-- R100, R102, R104, R117, R119, R121: the length, head and tail reads, in every state. -/
def Obligations.RingLengthAndIndexReads : Prop :=
  Instr.key .csrrTdlen = 0x03808#18 ∧ Instr.key .csrrTdh = 0x03810#18 ∧
  Instr.key .csrrTdt = 0x03818#18 ∧ Instr.key .csrrRdlen = 0x02808#18 ∧
  Instr.key .csrrRdh = 0x02810#18 ∧ Instr.key .csrrRdt = 0x02818#18 ∧
  ∀ s : State,
    (∃ v k, exec .csrrTdlen s = .next { s with busData := v, drawn := k } ∧
      v.extractLsb' 7 13 = s.regs.tx.len) ∧
    (∃ v k, exec .csrrTdh s = .next { s with busData := v, drawn := k } ∧
      v.extractLsb' 0 16 = s.regs.tx.head) ∧
    (∃ v k, exec .csrrTdt s = .next { s with busData := v, drawn := k } ∧
      v.extractLsb' 0 16 = s.regs.tx.tail) ∧
    (∃ v k, exec .csrrRdlen s = .next { s with busData := v, drawn := k } ∧
      v.extractLsb' 7 13 = s.regs.rx.len) ∧
    (∃ v k, exec .csrrRdh s = .next { s with busData := v, drawn := k } ∧
      v.extractLsb' 0 16 = s.regs.rx.head) ∧
    (∃ v k, exec .csrrRdt s = .next { s with busData := v, drawn := k } ∧
      v.extractLsb' 0 16 = s.regs.rx.tail)

/-- R97, R99, R101, R114, R116, R118: a ring's base and length are stored while the ring is disabled (TX:
TCTL.EN = 0 and nothing in flight; RX: RCTL.EN = 0), and the write faults otherwise. -/
def Obligations.RingBaseAndLengthWrites : Prop :=
  ∀ (s : State) (v : Word),
    Instr.key (.csrwTdbal v) = 0x23800#18 ∧ Instr.key (.csrwTdbah v) = 0x23804#18 ∧
    Instr.key (.csrwTdlen v) = 0x23808#18 ∧
    (s.regs.tctl.en = false → s.txInflight = [] →
      exec (.csrwTdbal v) s = .next { s with regs := { s.regs with
        tx := { s.regs.tx with dbal := some (v.extractLsb' 4 28) } } } ∧
      exec (.csrwTdbah v) s = .next { s with regs := { s.regs with
        tx := { s.regs.tx with dbah := some v } } } ∧
      exec (.csrwTdlen v) s = .next { s with regs := { s.regs with
        tx := { s.regs.tx with len := v.extractLsb' 7 13 } } }) ∧
    ((s.regs.tctl.en = true ∨ s.txInflight ≠ []) →
      exec (.csrwTdbal v) s = .fault (.csrWriteWhileEnabled 0x03800) ∧
      exec (.csrwTdbah v) s = .fault (.csrWriteWhileEnabled 0x03804) ∧
      exec (.csrwTdlen v) s = .fault (.csrWriteWhileEnabled 0x03808)) ∧
    Instr.key (.csrwRdbal v) = 0x22800#18 ∧ Instr.key (.csrwRdbah v) = 0x22804#18 ∧
    Instr.key (.csrwRdlen v) = 0x22808#18 ∧
    (s.regs.rctl.en = false →
      exec (.csrwRdbal v) s = .next { s with regs := { s.regs with
        rx := { s.regs.rx with dbal := some (v.extractLsb' 4 28) } } } ∧
      exec (.csrwRdbah v) s = .next { s with regs := { s.regs with
        rx := { s.regs.rx with dbah := some v } } } ∧
      exec (.csrwRdlen v) s = .next { s with regs := { s.regs with
        rx := { s.regs.rx with len := v.extractLsb' 7 13 } } }) ∧
    (s.regs.rctl.en = true →
      exec (.csrwRdbal v) s = .fault (.csrWriteWhileEnabled 0x02800) ∧
      exec (.csrwRdbah v) s = .fault (.csrWriteWhileEnabled 0x02804) ∧
      exec (.csrwRdlen v) s = .fault (.csrWriteWhileEnabled 0x02808))

/-- R103, R120: a head write is stored when its ring is disabled and the index is 0 or below the ring size;
the enable is checked before the range. -/
def Obligations.RingHeadWrites : Prop :=
  ∀ (s : State) (v : Word),
    Instr.key (.csrwTdh v) = 0x23810#18 ∧ Instr.key (.csrwRdh v) = 0x22810#18 ∧
    ((s.regs.tctl.en = true ∨ s.txInflight ≠ []) →
      exec (.csrwTdh v) s = .fault (.csrWriteWhileEnabled 0x03810)) ∧
    (s.regs.tctl.en = false → s.txInflight = [] → v.extractLsb' 0 16 ≠ 0#16 →
      s.regs.tx.len.toNat * 8 ≤ (v.extractLsb' 0 16).toNat →
      exec (.csrwTdh v) s = .fault (.txHeadOutOfRange (v.extractLsb' 0 16).toNat)) ∧
    (s.regs.tctl.en = false → s.txInflight = [] →
      (v.extractLsb' 0 16 = 0#16 ∨ (v.extractLsb' 0 16).toNat < s.regs.tx.len.toNat * 8) →
      exec (.csrwTdh v) s = .next { s with regs := { s.regs with
        tx := { s.regs.tx with head := v.extractLsb' 0 16 } } }) ∧
    (s.regs.rctl.en = true → exec (.csrwRdh v) s = .fault (.csrWriteWhileEnabled 0x02810)) ∧
    (s.regs.rctl.en = false → v.extractLsb' 0 16 ≠ 0#16 →
      s.regs.rx.len.toNat * 8 ≤ (v.extractLsb' 0 16).toNat →
      exec (.csrwRdh v) s = .fault (.rxHeadOutOfRange (v.extractLsb' 0 16).toNat)) ∧
    (s.regs.rctl.en = false →
      (v.extractLsb' 0 16 = 0#16 ∨ (v.extractLsb' 0 16).toNat < s.regs.rx.len.toNat * 8) →
      exec (.csrwRdh v) s = .next { s with regs := { s.regs with
        rx := { s.regs.rx with head := v.extractLsb' 0 16 } } })

/-- R105: the publish operation. `n` is the ring size, `t` the new tail, `h` and `old` the head and tail. -/
def Obligations.TdtWritePublishes : Prop :=
  ∀ (s : State) (v : Word) (n t h old : Nat),
    Instr.key (.csrwTdt v) = 0x23818#18 ∧
    (n = s.regs.tx.len.toNat * 8 → t = (v.extractLsb' 0 16).toNat →
      h = s.regs.tx.head.toNat → old = s.regs.tx.tail.toNat →
      (n = 0 → t ≠ 0 → exec (.csrwTdt v) s = .fault (.txTailOutOfRange t)) ∧
      (n = 0 → t = 0 → exec (.csrwTdt v) s =
        .next { s with regs := { s.regs with tx := { s.regs.tx with tail := 0#16 } } }) ∧
      (n ≠ 0 → n ≤ t → exec (.csrwTdt v) s = .fault (.txTailOutOfRange t)) ∧
      (n ≠ 0 → t < n → ((t : Int) - h) % n < ((old : Int) - h) % n →
        exec (.csrwTdt v) s = .fault (.txTailRetract old t)) ∧
      (n ≠ 0 → t < n → ((old : Int) - h) % n ≤ ((t : Int) - h) % n →
        exec (.csrwTdt v) s = .next { s with regs := { s.regs with
          tx := { s.regs.tx with tail := v.extractLsb' 0 16 } } }))

/-- R122: the grant operation, as R105 for the RX ring. -/
def Obligations.RdtWriteGrants : Prop :=
  ∀ (s : State) (v : Word) (n t h old : Nat),
    Instr.key (.csrwRdt v) = 0x22818#18 ∧
    (n = s.regs.rx.len.toNat * 8 → t = (v.extractLsb' 0 16).toNat →
      h = s.regs.rx.head.toNat → old = s.regs.rx.tail.toNat →
      (n = 0 → t ≠ 0 → exec (.csrwRdt v) s = .fault (.rxTailOutOfRange t)) ∧
      (n = 0 → t = 0 → exec (.csrwRdt v) s =
        .next { s with regs := { s.regs with rx := { s.regs.rx with tail := 0#16 } } }) ∧
      (n ≠ 0 → n ≤ t → exec (.csrwRdt v) s = .fault (.rxTailOutOfRange t)) ∧
      (n ≠ 0 → t < n → ((t : Int) - h) % n < ((old : Int) - h) % n →
        exec (.csrwRdt v) s = .fault (.rxTailRetract old t)) ∧
      (n ≠ 0 → t < n → ((old : Int) - h) % n ≤ ((t : Int) - h) % n →
        exec (.csrwRdt v) s = .next { s with regs := { s.regs with
          rx := { s.regs.rx with tail := v.extractLsb' 0 16 } } }))

/-! ## RCTL, RAL, RAH, MTA -/

/-- R111, R112: a read of RCTL gives every stored field, in every state; a write stores every field, unless
a field value is refused, or the buffer size would change while the receiver stays enabled. -/
def Obligations.RctlReadAndWrite : Prop :=
  Instr.key .csrrRctl = 0x00100#18 ∧
  ∀ (s : State) (v : Word),
    Instr.key (.csrwRctl v) = 0x20100#18 ∧
    (∃ u k, exec .csrrRctl s = .next { s with busData := u, drawn := k } ∧
      u.getLsbD 1 = s.regs.rctl.en ∧ u.getLsbD 2 = s.regs.rctl.sbp ∧ u.getLsbD 3 = s.regs.rctl.upe ∧
      u.getLsbD 4 = s.regs.rctl.mpe ∧ u.getLsbD 5 = s.regs.rctl.lpe ∧
      u.extractLsb' 6 2 = s.regs.rctl.lbm ∧ u.extractLsb' 8 2 = s.regs.rctl.rdmts ∧
      u.extractLsb' 12 2 = s.regs.rctl.mo ∧ u.getLsbD 15 = s.regs.rctl.bam ∧
      u.extractLsb' 16 2 = s.regs.rctl.bsize ∧ u.getLsbD 18 = s.regs.rctl.vfe ∧
      u.getLsbD 19 = s.regs.rctl.cfien ∧ u.getLsbD 20 = s.regs.rctl.cfi ∧
      u.getLsbD 22 = s.regs.rctl.dpf ∧ u.getLsbD 23 = s.regs.rctl.pmcf ∧
      u.getLsbD 25 = s.regs.rctl.bsex ∧ u.getLsbD 26 = s.regs.rctl.secrc) ∧
    ((v.extractLsb' 6 2 ≠ 0#2 ∨ v.extractLsb' 8 2 = 3#2 ∨ v.getLsbD 18 = true ∨ v.getLsbD 19 = true ∨
        (v.getLsbD 25 = true ∧ v.extractLsb' 16 2 = 0#2)) →
      exec (.csrwRctl v) s = .fault (.csrValueUnsupported 0x00100 v)) ∧
    (v.extractLsb' 6 2 = 0#2 → v.extractLsb' 8 2 ≠ 3#2 → v.getLsbD 18 = false → v.getLsbD 19 = false →
      ¬(v.getLsbD 25 = true ∧ v.extractLsb' 16 2 = 0#2) →
      ((s.regs.rctl.en = true ∧ v.getLsbD 1 = true ∧
          (v.extractLsb' 16 2 ≠ s.regs.rctl.bsize ∨ v.getLsbD 25 ≠ s.regs.rctl.bsex)) →
        exec (.csrwRctl v) s = .fault (.csrWriteWhileEnabled 0x00100)) ∧
      (¬(s.regs.rctl.en = true ∧ v.getLsbD 1 = true ∧
          (v.extractLsb' 16 2 ≠ s.regs.rctl.bsize ∨ v.getLsbD 25 ≠ s.regs.rctl.bsex)) →
        exec (.csrwRctl v) s = .next { s with regs := { s.regs with rctl :=
          { en := v.getLsbD 1, sbp := v.getLsbD 2, upe := v.getLsbD 3, mpe := v.getLsbD 4,
            lpe := v.getLsbD 5, lbm := v.extractLsb' 6 2, rdmts := v.extractLsb' 8 2,
            mo := v.extractLsb' 12 2, bam := v.getLsbD 15, bsize := v.extractLsb' 16 2,
            vfe := v.getLsbD 18, cfien := v.getLsbD 19, cfi := v.getLsbD 20, dpf := v.getLsbD 22,
            pmcf := v.getLsbD 23, bsex := v.getLsbD 25, secrc := v.getLsbD 26 } } }))

/-- R123, R124, R127, R128: RAL[n] and MTA[i] read back what is stored, or fault while it is `⊥`; a write
stores its entry and no other. -/
def Obligations.RalAndMtaReadAndWrite : Prop :=
  ∀ (s : State) (n : BitVec 4) (i : BitVec 7) (v : Word),
    Instr.key (.csrrRal n) = BitVec.ofNat 18 (0x05400 + 8 * n.toNat) ∧
    Instr.key (.csrwRal n v) = BitVec.ofNat 18 (0x25400 + 8 * n.toNat) ∧
    Instr.key (.csrrMta i) = BitVec.ofNat 18 (0x05200 + 4 * i.toNat) ∧
    Instr.key (.csrwMta i v) = BitVec.ofNat 18 (0x25200 + 4 * i.toNat) ∧
    (∀ u, (s.regs.ra.get n.toFin).ral = some u →
      exec (.csrrRal n) s = .next { s with busData := u }) ∧
    ((s.regs.ra.get n.toFin).ral = none →
      exec (.csrrRal n) s = .fault (.csrReadUndefined (0x05400 + 8 * n.toNat))) ∧
    (∃ ra, exec (.csrwRal n v) s = .next { s with regs := { s.regs with ra := ra } } ∧
      ∀ m : Fin 16, ra.get m =
        if m = n.toFin then { s.regs.ra.get m with ral := some v } else s.regs.ra.get m) ∧
    (∀ u, s.regs.mta.get i.toFin = some u → exec (.csrrMta i) s = .next { s with busData := u }) ∧
    (s.regs.mta.get i.toFin = none →
      exec (.csrrMta i) s = .fault (.csrReadUndefined (0x05200 + 4 * i.toNat))) ∧
    (∃ mta, exec (.csrwMta i v) s = .next { s with regs := { s.regs with mta := mta } } ∧
      ∀ m : Fin 128, mta.get m = if m = i.toFin then some v else s.regs.mta.get m)

/-- R125, R126: RAH[n] reads back its fields, or faults while one is `⊥`; a write stores its entry, and
ASEL other than 00b is refused. -/
def Obligations.RahReadAndWrite : Prop :=
  ∀ (s : State) (n : BitVec 4) (v : Word),
    Instr.key (.csrrRah n) = BitVec.ofNat 18 (0x05404 + 8 * n.toNat) ∧
    Instr.key (.csrwRah n v) = BitVec.ofNat 18 (0x25404 + 8 * n.toNat) ∧
    (∀ hi asel av, (s.regs.ra.get n.toFin).addrHi = some hi → (s.regs.ra.get n.toFin).asel = some asel →
      (s.regs.ra.get n.toFin).av = some av →
      ∃ u k, exec (.csrrRah n) s = .next { s with busData := u, drawn := k } ∧
        u.extractLsb' 0 16 = hi ∧ u.extractLsb' 16 2 = asel ∧ u.extractLsb' 31 1 = av) ∧
    (((s.regs.ra.get n.toFin).addrHi = none ∨ (s.regs.ra.get n.toFin).asel = none ∨
        (s.regs.ra.get n.toFin).av = none) →
      exec (.csrrRah n) s = .fault (.csrReadUndefined (0x05404 + 8 * n.toNat))) ∧
    (v.extractLsb' 16 2 ≠ 0#2 →
      exec (.csrwRah n v) s = .fault (.csrValueUnsupported (0x05404 + 8 * n.toNat) v)) ∧
    (v.extractLsb' 16 2 = 0#2 →
      ∃ ra, exec (.csrwRah n v) s = .next { s with regs := { s.regs with ra := ra } } ∧
        ∀ m : Fin 16, ra.get m =
          if m = n.toFin then
            { s.regs.ra.get m with
              addrHi := some (v.extractLsb' 0 16), asel := some 0#2, av := some (v.extractLsb' 31 1) }
          else s.regs.ra.get m)

/-- R129: the RX buffer size table; a write of the code with no size, BSEX = 1 with BSIZE = 00b, is
refused. -/
def Obligations.RxBufferSizeTable : Prop :=
  (∀ (s : State) (v : Word), v.getLsbD 25 = true → v.extractLsb' 16 2 = 0#2 →
    exec (.csrwRctl v) s = .fault (.csrValueUnsupported 0x00100 v)) ∧
  ∀ r : Rctl,
    (r.bsex = false → r.bsize = 0#2 → r.bufSize = some 2048) ∧
    (r.bsex = false → r.bsize = 1#2 → r.bufSize = some 1024) ∧
    (r.bsex = false → r.bsize = 2#2 → r.bufSize = some 512) ∧
    (r.bsex = false → r.bsize = 3#2 → r.bufSize = some 256) ∧
    (r.bsex = true → r.bsize = 1#2 → r.bufSize = some 16384) ∧
    (r.bsex = true → r.bsize = 2#2 → r.bufSize = some 8192) ∧
    (r.bsex = true → r.bsize = 3#2 → r.bufSize = some 4096)

/-! ## The TX engine -/

/-- R106: the TXF step. When it is enabled; then the outcomes in the order of its checks: base undefined,
descriptor out of range, CMD refused, length invalid, buffer out of range, and the fetch itself. -/
def Obligations.TxfFetchesOneDescriptor : Prop :=
  ∀ s : State,
    (turnEnabled s .txf = true ↔
      s.faults = [] ∧ s.inReset = false ∧ s.regs.tctl.en = true ∧ 0 < s.regs.tx.len.toNat * 8 ∧
      s.regs.tx.head.toNat < s.regs.tx.len.toNat * 8 ∧ s.regs.tx.tail.toNat < s.regs.tx.len.toNat * 8 ∧
      s.regs.tx.head ≠ s.regs.tx.tail ∧ s.txInflight.length < s.params.txInflightMax) ∧
    ((s.regs.tx.dbal = none ∨ s.regs.tx.dbah = none) →
      turnStep s .txf = .fault (.dmaRegUndefined .tx)) ∧
    (∀ (lo : BitVec 28) (hi : BitVec 32) (slot da addr len : Nat) (cmd sta : Byte),
      s.regs.tx.dbal = some lo → s.regs.tx.dbah = some hi → slot = s.regs.tx.head.toNat →
      da = hi.toNat * 2 ^ 32 + lo.toNat * 16 + 16 * slot →
      addr = Memory.readLE s.mem da 8 → len = Memory.readLE s.mem (da + 8) 2 →
      cmd = Memory.read s.mem (da + 11) → sta = Memory.read s.mem (da + 12) →
      (s.params.memBytes < da + 16 → turnStep s .txf = .fault (.dmaOutOfRange .txf da 16)) ∧
      (da + 16 ≤ s.params.memBytes →
        ((cmd.getLsbD 0 = false ∨ cmd.getLsbD 2 = true ∨ cmd.getLsbD 4 = true ∨ cmd.getLsbD 5 = true ∨
            cmd.getLsbD 6 = true) →
          turnStep s .txf = .fault (.txDescUnsupported slot cmd)) ∧
        (cmd.getLsbD 0 = true → cmd.getLsbD 2 = false → cmd.getLsbD 4 = false → cmd.getLsbD 5 = false →
          cmd.getLsbD 6 = false →
          ((len = 0 ∨ 16288 < len) → turnStep s .txf = .fault (.txLengthInvalid slot len)) ∧
          (1 ≤ len → len ≤ 16288 →
            (s.params.memBytes < addr + len →
              turnStep s .txf = .fault (.dmaOutOfRange .txf addr len)) ∧
            (addr + len ≤ s.params.memBytes →
              turnStep s .txf = .next { s with
                txInflight := s.txInflight ++
                  [{ slot := BitVec.ofNat 16 slot, daddr := BitVec.ofNat 64 da,
                     baddr := BitVec.ofNat 64 addr, frame := Memory.readBytes s.mem addr len,
                     rs := cmd.getLsbD 3, ifcs := cmd.getLsbD 1, staHi := sta.extractLsb' 4 4 }]
                regs := { s.regs with tx := { s.regs.tx with
                  head := BitVec.ofNat 16 ((slot + 1) % (s.regs.tx.len.toNat * 8)) } } })))))

/-- R107: the TXC step. When it is enabled; the frame it emits, padded with any bytes to 60 when PSP = 1;
with RS = 1 the one byte it writes, 12 bytes into the descriptor, and TXDW; TXQE when nothing is left. -/
def Obligations.TxcCompletesOldestDescriptor : Prop :=
  ∀ s : State,
    (turnEnabled s .txc = true ↔ s.faults = [] ∧ s.inReset = false ∧ s.txInflight ≠ []) ∧
    (∀ (e : TxEntry) (rest : List TxEntry), s.txInflight = e :: rest →
      (e.rs = true → s.params.memBytes < e.daddr.toNat + 13 →
        turnStep s .txc = .fault (.dmaOutOfRange .txc (e.daddr.toNat + 12) 1)) ∧
      ((e.rs = true → e.daddr.toNat + 13 ≤ s.params.memBytes) → Memory.wf s.mem = true →
        ∃ (pad : Frame) (k : Nat) (m : Memory),
          pad.length =
            (if s.regs.tctl.psp = true ∧ e.frame.length < 60 then 60 - e.frame.length else 0) ∧
          turnStep s .txc = .next { s with
            txInflight := rest
            wireOut := s.wireOut ++ [⟨e.frame ++ pad, e.ifcs⟩]
            drawn := k
            mem := m
            regs := { s.regs with icr := s.regs.icr |||
              (if e.rs then 0x1#17 else 0x0#17) |||
              (if rest = [] ∧ s.regs.tx.head = s.regs.tx.tail then 0x2#17 else 0x0#17) } } ∧
          ∀ x, Memory.read m x =
            if e.rs = true ∧ x = e.daddr.toNat + 12 then e.staHi ++ 1#4 else Memory.read s.mem x))

/-- R107: the write-back of a completion "cannot happen for an address that passed the fetch" to fault: in
a legal state an enabled TXC step goes on. -/
def Obligations.TxcNeverFaultsInLegalStates : Prop :=
  ∀ s : State, s.Legal → turnEnabled s .txc = true → ∃ t, turnStep s .txc = .next t

/-- R109: how many slots the device owns on the TX side, that at most all but one are published, and that
publishing onto the head when all but one are published faults. -/
def Obligations.TxRingHoldsAllButOneSlot : Prop :=
  ∀ (s : State) (n : Nat), n = s.regs.tx.len.toNat * 8 → 0 < n →
    ((txOwnedSlots s).length : Int) =
      ((s.regs.tx.tail.toNat : Int) - s.regs.tx.head.toNat) % n + s.txInflight.length ∧
    ((s.regs.tx.tail.toNat : Int) - s.regs.tx.head.toNat) % n ≤ (n : Int) - 1 ∧
    (((s.regs.tx.tail.toNat : Int) - s.regs.tx.head.toNat) % n = (n : Int) - 1 →
      s.regs.tx.head.toNat < n →
      ∀ v : Word, v.extractLsb' 0 16 = s.regs.tx.head →
        exec (.csrwTdt v) s = .fault (.txTailRetract s.regs.tx.tail.toNat s.regs.tx.head.toNat))

/-- R31, R106: a fetch moves the head slot from the window to the queue in flight; no slot enters or leaves
the device's hands. -/
def Obligations.FetchMovesHeadSlotIntoFlight : Prop :=
  ∀ s t : State, turnEnabled s .txf = true → turnStep s .txf = .next t →
    s.regs.tx.window = s.regs.tx.head.toNat :: t.regs.tx.window ∧
    t.txInflight.map (fun e => e.slot.toNat) =
      s.txInflight.map (fun e => e.slot.toNat) ++ [s.regs.tx.head.toNat] ∧
    (txOwnedSlots t).Perm (txOwnedSlots s)

/-- R108, R133: after `k` advances of one slot the head is `(head + k) mod N`, and after `N` it is back. -/
def Obligations.HeadReturnsAfterFullRound : Prop :=
  ∀ (r : RingRegs) (k : Nat), r.head.toNat < r.len.toNat * 8 →
    ((fun q : RingRegs => q.advance 1)^[k] r).head.toNat = (r.head.toNat + k) % (r.len.toNat * 8) ∧
    ((fun q : RingRegs => q.advance 1)^[r.len.toNat * 8] r) = r

/-! ## The RX engine -/

/-- R130: the address filter. `p` is the frame, with destination bytes `d`; checks 1 to 3, then the 16
exact-match entries in order up to the first that matches or is undefined, then the multicast table at the
hash `h`, else reject. -/
def Obligations.FilterChecksInOrder : Prop :=
  ∀ (r : Csrs) (p : Frame) (d : List Byte) (early : Bool) (skips : Nat → Prop) (h : Nat),
    14 ≤ p.length → d = p.take 6 →
    early =
      ((d == List.replicate 6 0xFF#8 && r.rctl.bam) || (!(d.getD 0 0#8).getLsbD 0 && r.rctl.upe) ||
        ((d.getD 0 0#8).getLsbD 0 && r.rctl.mpe)) →
    (∀ n, skips n ↔ ∃ hn : n < 16, r.ra[n].av = some 0#1 ∨
      ∃ lo hi, r.ra[n].av = some 1#1 ∧ r.ra[n].ral = some lo ∧ r.ra[n].addrHi = some hi ∧
        d ≠ [lo.extractLsb' 0 8, lo.extractLsb' 8 8, lo.extractLsb' 16 8, lo.extractLsb' 24 8,
          hi.extractLsb' 0 8, hi.extractLsb' 8 8]) →
    h = (match r.rctl.mo.toNat with
      | 0 => ((d.getD 4 0#8).toNat >>> 4) ||| ((d.getD 5 0#8).toNat <<< 4)
      | 1 => ((d.getD 4 0#8).toNat >>> 3) ||| ((d.getD 5 0#8).toNat <<< 5)
      | 2 => ((d.getD 4 0#8).toNat >>> 2) ||| ((d.getD 5 0#8).toNat <<< 6)
      | _ => (d.getD 4 0#8).toNat ||| ((d.getD 5 0#8).toNat <<< 8)) % 4096 →
    (early = true → rxFilter r p = .ok true) ∧
    (early = false → ∀ (n : Nat) (hn : n < 16), (∀ m, m < n → skips m) →
      (r.ra[n].av = none → rxFilter r p = .error (.filterUndefined (.rah n))) ∧
      (r.ra[n].av = some 1#1 → (r.ra[n].ral = none ∨ r.ra[n].addrHi = none) →
        rxFilter r p = .error (.filterUndefined (.ra n))) ∧
      (∀ lo hi, r.ra[n].av = some 1#1 → r.ra[n].ral = some lo → r.ra[n].addrHi = some hi →
        d = [lo.extractLsb' 0 8, lo.extractLsb' 8 8, lo.extractLsb' 16 8, lo.extractLsb' 24 8,
          hi.extractLsb' 0 8, hi.extractLsb' 8 8] → rxFilter r p = .ok true)) ∧
    (early = false → (∀ m, m < 16 → skips m) →
      ((d.getD 0 0#8).getLsbD 0 = true → ∀ hk : h / 32 < 128,
        (r.mta[h / 32] = none → rxFilter r p = .error (.filterUndefined (.mta (h / 32)))) ∧
        (∀ w, r.mta[h / 32] = some w → rxFilter r p = .ok (w.getLsbD (h % 32)))) ∧
      ((d.getD 0 0#8).getLsbD 0 = false → rxFilter r p = .ok false))

/-- R131: the WIRE_RX step: a frame is dropped while the receiver is off or in reset, when it is too long or
the filter rejects it; else it enters the FIFO, with four bytes of FCS unless SECRC = 1, or sets RXO. -/
def Obligations.WireRxAcceptsOrDrops : Prop :=
  ∀ (s : State) (p : Frame),
    (turnEnabled s (.wireRx p) = true ↔ s.faults = [] ∧ 60 ≤ p.length) ∧
    ((s.inReset = true ∨ s.regs.rctl.en = false) → turnStep s (.wireRx p) = .next s) ∧
    (s.inReset = false → s.regs.rctl.en = true →
      ((if s.regs.rctl.lpe then 16380 else 1518) < p.length → turnStep s (.wireRx p) = .next s) ∧
      (p.length ≤ (if s.regs.rctl.lpe then 16380 else 1518) →
        (∀ f, rxFilter s.regs p = .error f → turnStep s (.wireRx p) = .fault f) ∧
        (rxFilter s.regs p = .ok false → turnStep s (.wireRx p) = .next s) ∧
        (rxFilter s.regs p = .ok true → s.params.rxFifoFrames ≤ s.rxFifo.length →
          ∃ k, turnStep s (.wireRx p) =
            .next { s with drawn := k, regs := { s.regs with icr := s.regs.icr ||| 0x40#17 } }) ∧
        (rxFilter s.regs p = .ok true → s.rxFifo.length < s.params.rxFifoFrames →
          ∃ k fcs, fcs.length = (if s.regs.rctl.secrc then 0 else 4) ∧
            turnStep s (.wireRx p) = .next { s with drawn := k, rxFifo := s.rxFifo ++ [p ++ fcs] })))

/-- R132: the RXD step. `n` is the ring size, `q` the oldest frame, `b` the buffer size and `k` the number
of descriptors it takes. When it is enabled; the drop of a frame no ring can hold; the undefined base; the
range checks in slot order before any write; the deposit. That chunk `j` of a frame of several descriptors goes to
the address field of its own descriptor, without the `j * BSIZE` of R153, is the model's reading (log entry 28,
DEDUCED: R132 against R153, with no ruling in 90_conflicts.md). -/
def Obligations.RxdDepositsOldestFrame : Prop :=
  ∀ (s : State) (n b k : Nat) (q : Frame) (rest : List Frame),
    n = s.regs.rx.len.toNat * 8 → s.rxFifo = q :: rest → s.regs.rctl.bufSize = some b →
    k = (q.length + b - 1) / b →
    (turnEnabled s .rxd = true ↔
      s.faults = [] ∧ s.inReset = false ∧ s.regs.rctl.en = true ∧ 0 < n ∧ s.regs.rx.head.toNat < n ∧
      s.regs.rx.tail.toNat < n ∧
      (n - 1 < k ∨ (k : Int) ≤ ((s.regs.rx.tail.toNat : Int) - s.regs.rx.head.toNat) % n)) ∧
    (n - 1 < k →
      turnStep s .rxd =
        .next { s with rxFifo := rest, regs := { s.regs with icr := s.regs.icr ||| 0x40#17 } }) ∧
    (k ≤ n - 1 → (s.regs.rx.dbal = none ∨ s.regs.rx.dbah = none) →
      turnStep s .rxd = .fault (.dmaRegUndefined .rx)) ∧
    (∀ (lo : BitVec 28) (hi : BitVec 32) (da a : Nat → Nat) (c : Nat → Frame), k ≤ n - 1 →
      s.regs.rx.dbal = some lo → s.regs.rx.dbah = some hi →
      (∀ j, da j = hi.toNat * 2 ^ 32 + lo.toNat * 16 + 16 * ((s.regs.rx.head.toNat + j) % n)) →
      (∀ j, a j = Memory.readLE s.mem (da j) 8) → (∀ j, c j = (q.drop (j * b)).take b) →
      (s.regs.rx.head.toNat < n → ∀ j, j < k →
        (∀ i, i < j → da i + 16 ≤ s.params.memBytes ∧ a i + (c i).length ≤ s.params.memBytes) →
        (s.params.memBytes < da j + 8 → turnStep s .rxd = .fault (.dmaOutOfRange .rxd (da j) 8)) ∧
        (da j + 8 ≤ s.params.memBytes → s.params.memBytes < da j + 16 →
          turnStep s .rxd = .fault (.dmaOutOfRange .rxd (da j) 16)) ∧
        (da j + 16 ≤ s.params.memBytes → s.params.memBytes < a j + (c j).length →
          turnStep s .rxd = .fault (.dmaOutOfRange .rxd (a j) (c j).length))) ∧
      (s.regs.rx.head.toNat < n →
        (∀ j, j < k → da j + 16 ≤ s.params.memBytes ∧ a j + (c j).length ≤ s.params.memBytes) →
        ∃ (csum special : Nat → BitVec 16) (high : Nat → BitVec 6) (draws : Nat),
          turnStep s .rxd = .next { s with
            mem := (List.range k).foldl (fun m j =>
              Memory.writeBytes (Memory.writeBytes m (a j) (c j)) (da j + 8)
                [BitVec.ofNat 8 (c j).length, BitVec.ofNat 8 ((c j).length / 256),
                  (csum j).extractLsb' 0 8, (csum j).extractLsb' 8 8,
                  high j ++ (if j + 1 = k then 3#2 else 1#2), 0x00#8,
                  (special j).extractLsb' 0 8, (special j).extractLsb' 8 8]) s.mem
            drawn := draws
            rxFifo := rest
            regs := { s.regs with
              rx := { s.regs.rx with head := BitVec.ofNat 16 ((s.regs.rx.head.toNat + k) % n) }
              icr := s.regs.icr ||| 0x80#17 |||
                (if ((s.regs.rx.tail.toNat : Int) - ((s.regs.rx.head.toNat + k) % n : Nat)) % n ≤
                    ((n >>> (1 + s.regs.rctl.rdmts.toNat) : Nat) : Int) then 0x10#17 else 0x0#17) } }))

/-- R132, R64: what memory holds after a frame of one descriptor is deposited: the frame in its buffer, the
length, DD and EOP, ERRORS 0 in the write-back bytes 8 to 15 of the descriptor at `da`, and every other byte,
bytes 0 to 7 of the descriptor among them, as before. -/
def Obligations.RxdWritesBufferAndWriteBackOnly : Prop :=
  ∀ (s t : State) (q : Frame) (rest : List Frame) (b base da a : Nat),
    Memory.wf s.mem = true → turnEnabled s .rxd = true → s.rxFifo = q :: rest →
    s.regs.rctl.bufSize = some b → 1 ≤ q.length → q.length ≤ b → s.regs.rx.base = some base →
    da = base + 16 * s.regs.rx.head.toNat → a = Memory.readLE s.mem da 8 →
    turnStep s .rxd = .next t →
    (∀ x, ¬(a ≤ x ∧ x < a + q.length) → ¬(da + 8 ≤ x ∧ x < da + 16) →
      Memory.read t.mem x = Memory.read s.mem x) ∧
    (∀ (j : Nat) (hj : j < q.length), ¬(da + 8 ≤ a + j ∧ a + j < da + 16) →
      Memory.read t.mem (a + j) = q[j]) ∧
    Memory.readLE t.mem (da + 8) 2 = q.length % 65536 ∧
    (Memory.read t.mem (da + 12)).extractLsb' 0 2 = 3#2 ∧
    Memory.read t.mem (da + 13) = 0x00#8

/-- R32, R132: a deposit over `k` descriptors takes the first `k` slots out of the window, in index order, and
leaves the rest of it as it was: the slots it filled are software's, the others are not. -/
def Obligations.DepositTakesSlotsOutOfWindow : Prop :=
  ∀ (s t : State) (n b k : Nat) (q : Frame) (rest : List Frame),
    n = s.regs.rx.len.toNat * 8 → turnEnabled s .rxd = true → s.rxFifo = q :: rest →
    s.regs.rctl.bufSize = some b → k = (q.length + b - 1) / b → k ≤ n - 1 → turnStep s .rxd = .next t →
    s.regs.rx.window = (List.range k).map (fun j => (s.regs.rx.head.toNat + j) % n) ++ t.regs.rx.window

/-- R132, R149: a frame of at least one byte is cut into `ceil(|q| / b)` chunks, in order, each of `b` bytes
but the last, of 1 to `b` bytes. -/
def Obligations.ChunksPartitionTheFrame : Prop :=
  ∀ (q : Frame) (b k : Nat), 0 < b → 1 ≤ q.length → k = chunkCount q.length b →
    (chunks b k q).flatten = q ∧ (chunks b k q).length = k ∧
    (∀ (j : Nat) (hj : j < (chunks b k q).length), j + 1 < k → (chunks b k q)[j].length = b) ∧
    (∀ (hj : k - 1 < (chunks b k q).length),
      (chunks b k q)[k - 1].length = q.length - (k - 1) * b ∧
      1 ≤ (chunks b k q)[k - 1].length ∧ (chunks b k q)[k - 1].length ≤ b)

/-- R106, R107, R131, R132: a TX step leaves the RX ring, the FIFO, RCTL, the filter tables and the pending
EEPROM read alone; an RX step leaves the TX ring, the queue in flight and the link output alone. -/
def Obligations.EnginesLeaveTheOtherRingAlone : Prop :=
  ∀ (s t : State) (p : Frame),
    ((turnStep s .txf = .next t ∨ turnStep s .txc = .next t) →
      t.regs.rx = s.regs.rx ∧ t.rxFifo = s.rxFifo ∧ t.regs.rctl = s.regs.rctl ∧ t.regs.ra = s.regs.ra ∧
      t.regs.mta = s.regs.mta ∧ t.regs.eeReq = s.regs.eeReq ∧ t.regs.eerdDone = s.regs.eerdDone ∧
      t.regs.eerdAddr = s.regs.eerdAddr ∧ t.regs.eerdData = s.regs.eerdData ∧
      t.eerdPending = s.eerdPending ∧ t.eerdReqAddr = s.eerdReqAddr ∧
      t.regs.imask = s.regs.imask ∧ t.tasks = s.tasks ∧ t.inReset = s.inReset) ∧
    ((turnStep s (.wireRx p) = .next t ∨ turnStep s .rxd = .next t) →
      t.regs.tx = s.regs.tx ∧ t.txInflight = s.txInflight ∧ t.wireOut = s.wireOut ∧
      t.regs.tctl = s.regs.tctl ∧ t.regs.ra = s.regs.ra ∧ t.regs.mta = s.regs.mta ∧
      t.regs.eeReq = s.regs.eeReq ∧ t.regs.eerdDone = s.regs.eerdDone ∧
      t.regs.eerdAddr = s.regs.eerdAddr ∧ t.regs.eerdData = s.regs.eerdData ∧
      t.eerdPending = s.eerdPending ∧ t.eerdReqAddr = s.eerdReqAddr ∧
      t.regs.imask = s.regs.imask ∧ t.tasks = s.tasks ∧ t.inReset = s.inReset)

/-! ## Ownership and host memory -/

/-- R31, R32: which bytes the hardware owns. `tw` and `rw` say that a slot is in the TX or RX window. The TX
side's bytes are given once the TX base is defined, whatever the RX side holds, the RX side's once the RX base
and the buffer size are, whatever the TX side holds; a byte is hardware-owned when one of the sides owns it. The
address and length of a descriptor at or beyond MEM_BYTES are read as unlisted memory, the model's choice (log
entry 24). -/
def Obligations.HardwareOwnedBytes : Prop :=
  ∀ (s : State) (tw rw : Nat → Prop) (x : Nat),
    (∀ u, tw u ↔ s.regs.tx.len.toNat * 8 ≠ 0 ∧ ∃ j : Nat,
      (j : Int) < ((s.regs.tx.tail.toNat : Int) - s.regs.tx.head.toNat) % (s.regs.tx.len.toNat * 8 : Nat) ∧
      u = (s.regs.tx.head.toNat + j) % (s.regs.tx.len.toNat * 8)) →
    (∀ u, rw u ↔ s.regs.rx.len.toNat * 8 ≠ 0 ∧ ∃ j : Nat,
      (j : Int) < ((s.regs.rx.tail.toNat : Int) - s.regs.rx.head.toNat) % (s.regs.rx.len.toNat * 8 : Nat) ∧
      u = (s.regs.rx.head.toNat + j) % (s.regs.rx.len.toNat * 8)) →
    (∀ tb, s.regs.tx.base = some tb →
      (descOwner s.regs.tx.base (txOwnedSlots s) x ≠ none ↔
        ∃ u, (tw u ∨ ∃ e ∈ s.txInflight, e.slot.toNat = u) ∧ tb + 16 * u ≤ x ∧ x < tb + 16 * u + 16) ∧
      (txBufferOwner s x ≠ none ↔
        ∃ u, tw u ∧ Memory.readLE s.mem (tb + 16 * u) 8 ≤ x ∧
          x < Memory.readLE s.mem (tb + 16 * u) 8 + Memory.readLE s.mem (tb + 16 * u + 8) 2)) ∧
    (inflightOwner s x ≠ none ↔
      ∃ e ∈ s.txInflight, e.baddr.toNat ≤ x ∧ x < e.baddr.toNat + e.frame.length) ∧
    (∀ rb, s.regs.rx.base = some rb →
      (descOwner s.regs.rx.base s.regs.rx.window x ≠ none ↔
        ∃ u, rw u ∧ rb + 16 * u ≤ x ∧ x < rb + 16 * u + 16)) ∧
    (∀ rb b, s.regs.rx.base = some rb → s.regs.rctl.bufSize = some b →
      (rxBufferOwner s x ≠ none ↔
        ∃ u, rw u ∧ Memory.readLE s.mem (rb + 16 * u) 8 ≤ x ∧
          x < Memory.readLE s.mem (rb + 16 * u) 8 + b)) ∧
    (hwOwner s x ≠ none ↔
      (descOwner s.regs.tx.base (txOwnedSlots s) x ≠ none ∨ txBufferOwner s x ≠ none ∨
        inflightOwner s x ≠ none) ∨
      (descOwner s.regs.rx.base s.regs.rx.window x ≠ none ∨ rxBufferOwner s x ≠ none))

/-- R33: the states of a slot; a hardware-owned TX slot is ARMED whatever the ring base, the others need the
ring's base `b`; DD is bit 0 of byte 12 of its descriptor. That this byte is read as unlisted memory where it
lies at or beyond MEM_BYTES is the model's choice (log entry 33). -/
def Obligations.SlotStatesFollowOwnershipAndDone : Prop :=
  ∀ (s : State) (slot b : Nat),
    (slot ∈ txOwnedSlots s → txSlotState s slot = some .armed) ∧
    (s.regs.tx.base = some b →
      (txSlotState s slot = some .free ↔
        slot ∉ txOwnedSlots s ∧ (Memory.read s.mem (b + 16 * slot + 12)).getLsbD 0 = true) ∧
      (txSlotState s slot = some .armed ↔
        slot ∈ txOwnedSlots s ∨ (Memory.read s.mem (b + 16 * slot + 12)).getLsbD 0 = false)) ∧
    (s.regs.rx.base = some b →
      (rxSlotState s slot = some .posted ↔
        slot ∈ s.regs.rx.window ∧ (Memory.read s.mem (b + 16 * slot + 12)).getLsbD 0 = false) ∧
      (rxSlotState s slot = some .filled ↔
        slot ∉ s.regs.rx.window ∧ (Memory.read s.mem (b + 16 * slot + 12)).getLsbD 0 = true))

/-- R158, R48: an aligned store of `n` bytes at `x` inside memory. If no byte of it is hardware-owned, those
bytes become the value's, least significant first, and no other byte changes; if one is, the store faults. -/
def Obligations.AlignedStoreWritesOrFaults : Prop :=
  ∀ (s : State) (k x n : Nat) (t : Task) (w : Width) (a e : Expr),
    s.tasks[k]? = some t → t.nextForm = some (.store w a e) → evalExpr t.temps a = (x : Int) →
    n = (match w with | .byte => 1 | .half => 2 | .word => 4) → x % n = 0 →
    x + n ≤ s.params.memBytes → Memory.wf s.mem = true →
    ((∀ y, x ≤ y → y < x + n → hwOwner s y = none) →
      ∃ m, hostStep k s = .next (({ s with mem := m } : State).setTask k t.advance) ∧
        ∀ y, Memory.read m y =
          if x ≤ y ∧ y < x + n then BitVec.ofInt 8 (evalExpr t.temps e / 2 ^ (8 * (y - x)))
          else Memory.read s.mem y) ∧
    ((∃ y, x ≤ y ∧ y < x + n ∧ hwOwner s y ≠ none) →
      ∃ slot, hostStep k s = .fault (.ownershipViolation x slot))

/-- R157, R49: an aligned load of `n` bytes at `x` inside memory completes, zero-extended, least significant
byte first; a byte that is no hardware-owned RX buffer byte is memory's, any other is any value. -/
def Obligations.AlignedLoadReadsMemoryOrDraws : Prop :=
  ∀ (s : State) (k x n d : Nat) (t : Task) (w : Width) (a : Expr),
    s.tasks[k]? = some t → t.nextForm = some (.load w d a) → evalExpr t.temps a = (x : Int) →
    n = (match w with | .byte => 1 | .half => 2 | .word => 4) → x % n = 0 →
    x + n ≤ s.params.memBytes →
    ∃ (bytes : List Byte) (k' v : Nat),
      bytes.length = n ∧
      (∀ (j : Nat) (hj : j < bytes.length), rxBufferOwner s (x + j) = none →
        bytes[j] = Memory.read s.mem (x + j)) ∧
      v < 256 ^ n ∧ (∀ (j : Nat) (hj : j < bytes.length), v / 256 ^ j % 256 = bytes[j].toNat) ∧
      hostStep k s = .next (({ s with drawn := k' } : State).setTask k (t.assign d v).advance)

/-- R44: a misaligned access of `n` bytes at `x` moves one byte a step, in ascending order, here the `j`-th. A
store's byte is checked on its own and is the only one changed; a load's byte is memory's, unless it is a
hardware-owned RX buffer byte. The task goes to its next form with the last byte, and a load's temporary then
gets the value of all of them. -/
def Obligations.MisalignedAccessMovesOneByte : Prop :=
  ∀ (s : State) (k x n j d : Nat) (t : Task) (w : Width) (a e : Expr),
    s.tasks[k]? = some t → evalExpr t.temps a = (x : Int) →
    n = (match w with | .byte => 1 | .half => 2 | .word => 4) → x % n ≠ 0 →
    t.moved.length = j → j < n → x + j < s.params.memBytes → Memory.wf s.mem = true →
    (t.nextForm = some (.store w a e) → hwOwner s (x + j) = none →
      ∃ m t', hostStep k s = .next (({ s with mem := m } : State).setTask k t') ∧
        (j + 1 < n → t'.pos = t.pos ∧ t'.moved.length = j + 1 ∧ t'.temps = t.temps ∧
          t'.code = t.code ∧ t'.status = t.status) ∧
        (j + 1 = n → t' = t.advance) ∧
        ∀ y, Memory.read m y =
          if y = x + j then BitVec.ofInt 8 (evalExpr t.temps e / 2 ^ (8 * j))
          else Memory.read s.mem y) ∧
    (t.nextForm = some (.store w a e) → hwOwner s (x + j) ≠ none →
      ∃ slot, hostStep k s = .fault (.ownershipViolation (x + j) slot)) ∧
    (t.nextForm = some (.load w d a) →
      ∃ (v : Byte) (k' : Nat),
        (rxBufferOwner s (x + j) = none → v = Memory.read s.mem (x + j)) ∧
        (j + 1 < n →
          hostStep k s =
            .next (({ s with drawn := k' } : State).setTask k { t with moved := t.moved ++ [v] })) ∧
        (j + 1 = n →
          hostStep k s = .next (({ s with drawn := k' } : State).setTask k
            (t.assign d (leNat (t.moved ++ [v]))).advance)))

/-- R43: after bytes `vs` are written at `a`, a read of any width inside them sees those bytes, and every
byte outside them is as before. -/
def Obligations.ReadAfterWriteSeesTheBytes : Prop :=
  ∀ (m : Memory) (a c n : Nat) (vs : List Byte), Memory.wf m = true →
    (a ≤ c → c + n ≤ a + vs.length →
      Memory.readBytes (Memory.writeBytes m a vs) c n = (vs.drop (c - a)).take n) ∧
    (∀ x, x < a ∨ a + vs.length ≤ x → Memory.read (Memory.writeBytes m a vs) x = Memory.read m x)

/-- R48: whatever a host task does, a step of it that goes on leaves every hardware-owned byte as it was. -/
def Obligations.HostNeverWritesOwnedBytes : Prop :=
  ∀ (s t : State) (k x : Nat), hostStep k s = .next t → hwOwner s x ≠ none →
    Memory.read t.mem x = Memory.read s.mem x

/-- R159 to R162, R68, R152: a branch continues at its label or at the next form; a label does nothing; an
assignment gives its temporary the value and leaves the others; `halt`, `fatal` and `return` end the task, which
then has no step to make. None touches the device or memory. That each is a step of its own (log entry 11) and
that a label written twice is found at its first occurrence (log entry 25) are the model's choice; a label
written once is found where it stands. -/
def Obligations.ControlFormsMoveOnlyTheTask : Prop :=
  ∀ (s : State) (k : Nat) (t : Task) (x y : Expr) (l p d : Nat),
    s.tasks[k]? = some t →
    (t.code[p]? = some (.label l) → (∀ q, t.code[q]? = some (.label l) → q = p) →
      findLabel t.code l = some p) ∧
    (t.nextForm = some (.beq x y l) →
      (evalExpr t.temps x = evalExpr t.temps y → findLabel t.code l = some p →
        t.code[p]? = some (.label l) ∧
        hostStep k s = .next (s.setTask k { t with pos := p, moved := [] })) ∧
      (evalExpr t.temps x ≠ evalExpr t.temps y → hostStep k s = .next (s.setTask k t.advance))) ∧
    (t.nextForm = some (.bne x y l) →
      (evalExpr t.temps x ≠ evalExpr t.temps y → findLabel t.code l = some p →
        t.code[p]? = some (.label l) ∧
        hostStep k s = .next (s.setTask k { t with pos := p, moved := [] })) ∧
      (evalExpr t.temps x = evalExpr t.temps y → hostStep k s = .next (s.setTask k t.advance))) ∧
    (t.nextForm = some (.label l) → hostStep k s = .next (s.setTask k t.advance)) ∧
    (t.nextForm = some (.assign d x) →
      hostStep k s = .next (s.setTask k (t.assign d (evalExpr t.temps x)).advance) ∧
      ∀ c, tempValue (t.assign d (evalExpr t.temps x)).temps c =
        if c = d then evalExpr t.temps x else tempValue t.temps c) ∧
    (t.nextForm = some .halt → hostStep k s = .next (s.setTask k { t with status := .halted }) ∧
      hostEnabled k (s.setTask k { t with status := .halted }) = false) ∧
    (t.nextForm = some .fatal → hostStep k s = .next (s.setTask k { t with status := .fatal }) ∧
      hostEnabled k (s.setTask k { t with status := .fatal }) = false) ∧
    (t.nextForm = some (.ret x) →
      hostStep k s = .next (s.setTask k { t with status := .returned (evalExpr t.temps x) }) ∧
      hostEnabled k (s.setTask k { t with status := .returned (evalExpr t.temps x) }) = false)

/-! ## Reset and faults -/

/-- R176: power-on reset with parameters `p` and memory `m`: every register field, the hidden state, and an
idle device, no step of which is enabled but WIRE_RX, with its interrupt line low. -/
def Obligations.PowerOnResetValues : Prop :=
  ∀ (p : Params) (m : Memory) (s : State), s = State.powerOn p m →
    s.params = p ∧ s.mem = m ∧ s.wireOut = [] ∧ s.faults = [] ∧
    s.inReset = false ∧ s.eerdPending = false ∧ s.eerdReqAddr = 0#8 ∧ s.txInflight = [] ∧ s.rxFifo = [] ∧
    s.regs.ctrl = ⟨none, none, none, none, none, none, none, none, none, none, none, none, none, none,
      none, none, none, none⟩ ∧
    s.regs.eeReq = false ∧ s.regs.eerdDone = false ∧ s.regs.eerdAddr = 0#8 ∧ s.regs.eerdData = 0#16 ∧
    s.regs.icr = 0#17 ∧ s.regs.imask = 0#17 ∧
    s.regs.rctl = ⟨false, false, false, false, false, 0#2, 0#2, 0#2, false, 0#2, false, false, false,
      false, false, false, false⟩ ∧
    s.regs.tctl = ⟨false, false, none, none, false, none⟩ ∧ s.regs.tipg = ⟨none, none, none⟩ ∧
    s.regs.rx = ⟨none, none, 0#13, 0#16, 0#16⟩ ∧ s.regs.tx = ⟨none, none, 0#13, 0#16, 0#16⟩ ∧
    s.regs.ra[0] = ⟨none, none, none, none⟩ ∧
    (∀ (n : Nat) (hn : n < 16), 1 ≤ n → s.regs.ra[n] = ⟨none, none, none, some 0#1⟩) ∧
    (∀ (i : Nat) (hi : i < 128), s.regs.mta[i] = none) ∧
    intr s = false ∧
    (∀ u : Turn, (∀ q, u ≠ .wireRx q) → (∀ k, u ≠ .host k) → turnEnabled s u = false)

/-- The model's own choices at reset (log entries 3, 4, 5, 6): the example parameters, nothing listed in
memory, no host task, no turn to come; and the reset state is legal. -/
def Obligations.ResetStateIsLegal : Prop :=
  State.reset.Legal ∧ State.reset = State.powerOn Params.example [] ∧
    State.reset.tasks = [] ∧ State.reset.agenda = []

/-- R177: software reset. A write of CTRL with RST = 1 starts it. While it is in progress no CSR transaction
and no device step but RST is enabled, the link's frames are dropped, and loads and stores are not held. The
RST step is weakly fair (R169), so in a fair run, which is the model's account of fairness over schedules (log
entry 19), it completes the reset; some of the frames in flight, oldest first, leave as TXC would send them (log
entry 18); every register and all hidden state are reset; memory, the parameters, the fault record and the tasks
stay. -/
def Obligations.SoftwareReset : Prop :=
  (∀ (schedule : Nat → Turn) (states : Nat → State) (n : Nat), fairRun schedule states →
    (∀ m, n ≤ m → (states m).faults = []) → (states n).inReset = true →
    ∃ m, n ≤ m ∧ schedule m = .rst ∧ (states m).inReset = true ∧ (states (m + 1)).inReset = false) ∧
  ∀ s : State,
    (∀ (v : Word) (t : State), v.getLsbD 26 = true → exec (.csrwCtrl v) s = .next t → t.inReset = true) ∧
    (s.inReset = true →
      turnEnabled s .txf = false ∧ turnEnabled s .txc = false ∧ turnEnabled s .rxd = false ∧
      turnEnabled s .eep = false ∧ (∀ p, turnStep s (.wireRx p) = .next s) ∧
      (∀ (k : Nat) (t : Task) (f : Form) (x : Transaction) (i : Instr), s.tasks[k]? = some t →
        t.nextForm = some f → formTransaction t.temps f = some x → checkTransaction x = .ok i →
        turnEnabled s (.host k) = false) ∧
      (∀ (k : Nat) (t : Task) (w : Width) (d : Nat) (a e : Expr), s.faults = [] → s.tasks[k]? = some t →
        (t.nextForm = some (.load w d a) ∨ t.nextForm = some (.store w a e)) →
        turnEnabled s (.host k) = true)) ∧
    (turnEnabled s .rst = true ↔ s.faults = [] ∧ s.inReset = true) ∧
    ∃ (chosen : List TxEntry) (out : List WireFrame) (k : Nat),
      chosen.Sublist s.txInflight ∧
      List.Forall₂ (fun e w => w.fcsInserted = e.ifcs ∧ ∃ pad : Frame, w.bytes = e.frame ++ pad ∧
        pad.length =
          (if s.regs.tctl.psp = true ∧ e.frame.length < 60 then 60 - e.frame.length else 0)) chosen out ∧
      turnStep s .rst = .next { s with
        regs := (State.powerOn s.params s.mem).regs
        inReset := false
        eerdPending := false
        eerdReqAddr := 0#8
        txInflight := []
        rxFifo := []
        wireOut := s.wireOut ++ out
        drawn := k }

/-- R164: faults are precise and terminal. A step that faults leaves the state it started from with the
fault added to the record; once a fault is recorded no agent is enabled and every step answers it. That `settle`
gives the state a fault leaves, and that a later step answers the recorded fault, is the model's reading (log
entry 13). -/
def Obligations.FaultsArePreciseAndTerminal : Prop :=
  (∀ (s : State) (f : Fault), s.faults = [] → step s = .fault f →
    settle s (step s) = { s with faults := [f] } ∧ step (settle s (step s)) = .fault f) ∧
  (∀ (s : State) (f : Fault) (fs : List Fault), s.faults = f :: fs →
    step s = .fault f ∧ ∀ u, turnEnabled s u = false)

/-! ## Invariants and whole-machine rules -/

/-- The invariant every step keeps: no refused value is stored, the queues keep their bounds, what a fetch
checked of an entry in flight stays true, a pending EEPROM read is not done, and memory keeps its canonical
form inside MEM_BYTES. -/
def Obligations.StepKeepsLegal : Prop :=
  ∀ s t : State, s.Legal → step s = .next t → t.Legal

/-- R166: what sets and what clears a cause. In one step, a cause bit `c` rises only by the agent's event
that R166 names for it or by a host write of ICS with that bit, and falls only by the RST step, a host read
of ICR, or a host write of ICR with that bit. -/
def Obligations.CausesChangeOnlyByTheirEvents : Prop :=
  ∀ (s t : State) (u : Turn) (rest : List Turn) (c : Nat),
    s.agenda = u :: rest → step s = .next t → c < 17 →
    (s.regs.icr.getLsbD c = false → t.regs.icr.getLsbD c = true →
      (c = 0 ∧ u = .txc ∧ ∃ e es, s.txInflight = e :: es ∧ e.rs = true) ∨
      (c = 1 ∧ u = .txc ∧ s.regs.tx.head = s.regs.tx.tail ∧ ∃ e, s.txInflight = [e]) ∨
      (u = .rxd ∧ ∃ q qs b, s.rxFifo = q :: qs ∧ s.regs.rctl.bufSize = some b ∧
        (((q.length + b - 1) / b ≤ s.regs.rx.len.toNat * 8 - 1 ∧
            (c = 7 ∨ (c = 4 ∧ rxLow t t.regs.rx = true))) ∨
          (s.regs.rx.len.toNat * 8 - 1 < (q.length + b - 1) / b ∧ c = 6))) ∨
      (c = 6 ∧ (∃ p, u = .wireRx p) ∧ s.params.rxFifoFrames ≤ s.rxFifo.length) ∨
      (∃ k task f x, u = .host k ∧ s.tasks[k]? = some task ∧ task.nextForm = some f ∧
        formTransaction task.temps f = some x ∧ x.write = true ∧ x.offset = 0x000C8 ∧
        x.value.getLsbD c = true)) ∧
    (s.regs.icr.getLsbD c = true → t.regs.icr.getLsbD c = false →
      u = .rst ∨
      (∃ k task f x, u = .host k ∧ s.tasks[k]? = some task ∧ task.nextForm = some f ∧
        formTransaction task.temps f = some x ∧ x.offset = 0x000C0 ∧
        (x.write = false ∨ x.value.getLsbD c = true)))

/-- R104, R121: only the host moves a tail. In one step TDT or RDT changes only by the RST step, or by a
host write of that register, whose low 16 bits it then holds. -/
def Obligations.TailsMoveOnlyByHostWrites : Prop :=
  ∀ (s t : State) (u : Turn) (rest : List Turn), s.agenda = u :: rest → step s = .next t →
    (t.regs.tx.tail ≠ s.regs.tx.tail →
      u = .rst ∨
      ∃ k task f x, u = .host k ∧ s.tasks[k]? = some task ∧ task.nextForm = some f ∧
        formTransaction task.temps f = some x ∧ x.write = true ∧ x.offset = 0x03818 ∧
        t.regs.tx.tail = x.value.extractLsb' 0 16) ∧
    (t.regs.rx.tail ≠ s.regs.rx.tail →
      u = .rst ∨
      ∃ k task f x, u = .host k ∧ s.tasks[k]? = some task ∧ task.nextForm = some f ∧
        formTransaction task.temps f = some x ∧ x.write = true ∧ x.offset = 0x02818 ∧
        t.regs.rx.tail = x.value.extractLsb' 0 16)

/-- R30, R90: no step changes the parameters (the EEPROM among them) or takes a frame off the link output. Only
TXC and RST add one: that RST does is R177, which the model follows against R30's "only TXC appends to" (log
entry 18, DEDUCED). -/
def Obligations.LinkOutputOnlyGrows : Prop :=
  ∀ (s t : State), step s = .next t →
    t.params = s.params ∧ t.faults = s.faults ∧
    ∃ out, t.wireOut = s.wireOut ++ out ∧
      (out ≠ [] → ∃ u rest, s.agenda = u :: rest ∧ (u = .txc ∨ u = .rst))
end

