-- ==== Sys2Proof/Laws/State.lean ====
section
/-! SUPPORT. One lemma per field per update of State, so that no proof unfolds a record update. -/

namespace Sys2Proof.Machine

/-! ## returnValue: a read that returns exactly a value -/

@[simp] theorem returnValue_params (s : State) (v : Word) : (s.returnValue v).params = s.params := rfl
@[simp] theorem returnValue_regs (s : State) (v : Word) : (s.returnValue v).regs = s.regs := rfl
@[simp] theorem returnValue_inReset (s : State) (v : Word) : (s.returnValue v).inReset = s.inReset := rfl
@[simp] theorem returnValue_eerdPending (s : State) (v : Word) : (s.returnValue v).eerdPending = s.eerdPending := rfl
@[simp] theorem returnValue_eerdReqAddr (s : State) (v : Word) : (s.returnValue v).eerdReqAddr = s.eerdReqAddr := rfl
@[simp] theorem returnValue_txInflight (s : State) (v : Word) : (s.returnValue v).txInflight = s.txInflight := rfl
@[simp] theorem returnValue_rxFifo (s : State) (v : Word) : (s.returnValue v).rxFifo = s.rxFifo := rfl
@[simp] theorem returnValue_mem (s : State) (v : Word) : (s.returnValue v).mem = s.mem := rfl
@[simp] theorem returnValue_wireOut (s : State) (v : Word) : (s.returnValue v).wireOut = s.wireOut := rfl
@[simp] theorem returnValue_faults (s : State) (v : Word) : (s.returnValue v).faults = s.faults := rfl
@[simp] theorem returnValue_drawn (s : State) (v : Word) : (s.returnValue v).drawn = s.drawn := rfl
@[simp] theorem returnValue_busData (s : State) (v : Word) : (s.returnValue v).busData = v := rfl
@[simp] theorem returnValue_tasks (s : State) (v : Word) : (s.returnValue v).tasks = s.tasks := rfl
@[simp] theorem returnValue_agenda (s : State) (v : Word) : (s.returnValue v).agenda = s.agenda := rfl

/-! ## returnDrawn: a read with drawn bits -/

@[simp] theorem returnDrawn_params (s : State) (v x : Word) : (s.returnDrawn v x).params = s.params := rfl
@[simp] theorem returnDrawn_regs (s : State) (v x : Word) : (s.returnDrawn v x).regs = s.regs := rfl
@[simp] theorem returnDrawn_inReset (s : State) (v x : Word) : (s.returnDrawn v x).inReset = s.inReset := rfl
@[simp] theorem returnDrawn_eerdPending (s : State) (v x : Word) : (s.returnDrawn v x).eerdPending = s.eerdPending := rfl
@[simp] theorem returnDrawn_eerdReqAddr (s : State) (v x : Word) : (s.returnDrawn v x).eerdReqAddr = s.eerdReqAddr := rfl
@[simp] theorem returnDrawn_txInflight (s : State) (v x : Word) : (s.returnDrawn v x).txInflight = s.txInflight := rfl
@[simp] theorem returnDrawn_rxFifo (s : State) (v x : Word) : (s.returnDrawn v x).rxFifo = s.rxFifo := rfl
@[simp] theorem returnDrawn_mem (s : State) (v x : Word) : (s.returnDrawn v x).mem = s.mem := rfl
@[simp] theorem returnDrawn_wireOut (s : State) (v x : Word) : (s.returnDrawn v x).wireOut = s.wireOut := rfl
@[simp] theorem returnDrawn_faults (s : State) (v x : Word) : (s.returnDrawn v x).faults = s.faults := rfl
@[simp] theorem returnDrawn_drawn (s : State) (v x : Word) : (s.returnDrawn v x).drawn = s.drawn + 1 := rfl
@[simp] theorem returnDrawn_busData (s : State) (v x : Word) : (s.returnDrawn v x).busData = (v &&& ~~~x) ||| (Config.draw s.drawn &&& x) := rfl
@[simp] theorem returnDrawn_tasks (s : State) (v x : Word) : (s.returnDrawn v x).tasks = s.tasks := rfl
@[simp] theorem returnDrawn_agenda (s : State) (v x : Word) : (s.returnDrawn v x).agenda = s.agenda := rfl

/-! ## setTx: new TX ring registers -/

@[simp] theorem setTx_params (s : State) (r : RingRegs) : (s.setTx r).params = s.params := rfl
@[simp] theorem setTx_regs (s : State) (r : RingRegs) : (s.setTx r).regs = { s.regs with tx := r } := rfl
@[simp] theorem setTx_inReset (s : State) (r : RingRegs) : (s.setTx r).inReset = s.inReset := rfl
@[simp] theorem setTx_eerdPending (s : State) (r : RingRegs) : (s.setTx r).eerdPending = s.eerdPending := rfl
@[simp] theorem setTx_eerdReqAddr (s : State) (r : RingRegs) : (s.setTx r).eerdReqAddr = s.eerdReqAddr := rfl
@[simp] theorem setTx_txInflight (s : State) (r : RingRegs) : (s.setTx r).txInflight = s.txInflight := rfl
@[simp] theorem setTx_rxFifo (s : State) (r : RingRegs) : (s.setTx r).rxFifo = s.rxFifo := rfl
@[simp] theorem setTx_mem (s : State) (r : RingRegs) : (s.setTx r).mem = s.mem := rfl
@[simp] theorem setTx_wireOut (s : State) (r : RingRegs) : (s.setTx r).wireOut = s.wireOut := rfl
@[simp] theorem setTx_faults (s : State) (r : RingRegs) : (s.setTx r).faults = s.faults := rfl
@[simp] theorem setTx_drawn (s : State) (r : RingRegs) : (s.setTx r).drawn = s.drawn := rfl
@[simp] theorem setTx_busData (s : State) (r : RingRegs) : (s.setTx r).busData = s.busData := rfl
@[simp] theorem setTx_tasks (s : State) (r : RingRegs) : (s.setTx r).tasks = s.tasks := rfl
@[simp] theorem setTx_agenda (s : State) (r : RingRegs) : (s.setTx r).agenda = s.agenda := rfl

/-! ## setRx: new RX ring registers -/

@[simp] theorem setRx_params (s : State) (r : RingRegs) : (s.setRx r).params = s.params := rfl
@[simp] theorem setRx_regs (s : State) (r : RingRegs) : (s.setRx r).regs = { s.regs with rx := r } := rfl
@[simp] theorem setRx_inReset (s : State) (r : RingRegs) : (s.setRx r).inReset = s.inReset := rfl
@[simp] theorem setRx_eerdPending (s : State) (r : RingRegs) : (s.setRx r).eerdPending = s.eerdPending := rfl
@[simp] theorem setRx_eerdReqAddr (s : State) (r : RingRegs) : (s.setRx r).eerdReqAddr = s.eerdReqAddr := rfl
@[simp] theorem setRx_txInflight (s : State) (r : RingRegs) : (s.setRx r).txInflight = s.txInflight := rfl
@[simp] theorem setRx_rxFifo (s : State) (r : RingRegs) : (s.setRx r).rxFifo = s.rxFifo := rfl
@[simp] theorem setRx_mem (s : State) (r : RingRegs) : (s.setRx r).mem = s.mem := rfl
@[simp] theorem setRx_wireOut (s : State) (r : RingRegs) : (s.setRx r).wireOut = s.wireOut := rfl
@[simp] theorem setRx_faults (s : State) (r : RingRegs) : (s.setRx r).faults = s.faults := rfl
@[simp] theorem setRx_drawn (s : State) (r : RingRegs) : (s.setRx r).drawn = s.drawn := rfl
@[simp] theorem setRx_busData (s : State) (r : RingRegs) : (s.setRx r).busData = s.busData := rfl
@[simp] theorem setRx_tasks (s : State) (r : RingRegs) : (s.setRx r).tasks = s.tasks := rfl
@[simp] theorem setRx_agenda (s : State) (r : RingRegs) : (s.setRx r).agenda = s.agenda := rfl

/-! ## setTask: a task replaced -/

@[simp] theorem setTask_params (s : State) (k : Nat) (t : Task) : (s.setTask k t).params = s.params := rfl
@[simp] theorem setTask_regs (s : State) (k : Nat) (t : Task) : (s.setTask k t).regs = s.regs := rfl
@[simp] theorem setTask_inReset (s : State) (k : Nat) (t : Task) : (s.setTask k t).inReset = s.inReset := rfl
@[simp] theorem setTask_eerdPending (s : State) (k : Nat) (t : Task) : (s.setTask k t).eerdPending = s.eerdPending := rfl
@[simp] theorem setTask_eerdReqAddr (s : State) (k : Nat) (t : Task) : (s.setTask k t).eerdReqAddr = s.eerdReqAddr := rfl
@[simp] theorem setTask_txInflight (s : State) (k : Nat) (t : Task) : (s.setTask k t).txInflight = s.txInflight := rfl
@[simp] theorem setTask_rxFifo (s : State) (k : Nat) (t : Task) : (s.setTask k t).rxFifo = s.rxFifo := rfl
@[simp] theorem setTask_mem (s : State) (k : Nat) (t : Task) : (s.setTask k t).mem = s.mem := rfl
@[simp] theorem setTask_wireOut (s : State) (k : Nat) (t : Task) : (s.setTask k t).wireOut = s.wireOut := rfl
@[simp] theorem setTask_faults (s : State) (k : Nat) (t : Task) : (s.setTask k t).faults = s.faults := rfl
@[simp] theorem setTask_drawn (s : State) (k : Nat) (t : Task) : (s.setTask k t).drawn = s.drawn := rfl
@[simp] theorem setTask_busData (s : State) (k : Nat) (t : Task) : (s.setTask k t).busData = s.busData := rfl
@[simp] theorem setTask_tasks (s : State) (k : Nat) (t : Task) : (s.setTask k t).tasks = s.tasks.set k t := rfl
@[simp] theorem setTask_agenda (s : State) (k : Nat) (t : Task) : (s.setTask k t).agenda = s.agenda := rfl

/-! ## recordFault: a fault recorded -/

@[simp] theorem recordFault_params (s : State) (f : Fault) : (s.recordFault f).params = s.params := rfl
@[simp] theorem recordFault_regs (s : State) (f : Fault) : (s.recordFault f).regs = s.regs := rfl
@[simp] theorem recordFault_inReset (s : State) (f : Fault) : (s.recordFault f).inReset = s.inReset := rfl
@[simp] theorem recordFault_eerdPending (s : State) (f : Fault) : (s.recordFault f).eerdPending = s.eerdPending := rfl
@[simp] theorem recordFault_eerdReqAddr (s : State) (f : Fault) : (s.recordFault f).eerdReqAddr = s.eerdReqAddr := rfl
@[simp] theorem recordFault_txInflight (s : State) (f : Fault) : (s.recordFault f).txInflight = s.txInflight := rfl
@[simp] theorem recordFault_rxFifo (s : State) (f : Fault) : (s.recordFault f).rxFifo = s.rxFifo := rfl
@[simp] theorem recordFault_mem (s : State) (f : Fault) : (s.recordFault f).mem = s.mem := rfl
@[simp] theorem recordFault_wireOut (s : State) (f : Fault) : (s.recordFault f).wireOut = s.wireOut := rfl
@[simp] theorem recordFault_faults (s : State) (f : Fault) : (s.recordFault f).faults = s.faults ++ [f] := rfl
@[simp] theorem recordFault_drawn (s : State) (f : Fault) : (s.recordFault f).drawn = s.drawn := rfl
@[simp] theorem recordFault_busData (s : State) (f : Fault) : (s.recordFault f).busData = s.busData := rfl
@[simp] theorem recordFault_tasks (s : State) (f : Fault) : (s.recordFault f).tasks = s.tasks := rfl
@[simp] theorem recordFault_agenda (s : State) (f : Fault) : (s.recordFault f).agenda = s.agenda := rfl

/-! ## issueNext: a transaction issued next -/

@[simp] theorem issueNext_params (s : State) (x : Transaction) : (s.issueNext x).params = s.params := rfl
@[simp] theorem issueNext_regs (s : State) (x : Transaction) : (s.issueNext x).regs = s.regs := rfl
@[simp] theorem issueNext_inReset (s : State) (x : Transaction) : (s.issueNext x).inReset = s.inReset := rfl
@[simp] theorem issueNext_eerdPending (s : State) (x : Transaction) : (s.issueNext x).eerdPending = s.eerdPending := rfl
@[simp] theorem issueNext_eerdReqAddr (s : State) (x : Transaction) : (s.issueNext x).eerdReqAddr = s.eerdReqAddr := rfl
@[simp] theorem issueNext_txInflight (s : State) (x : Transaction) : (s.issueNext x).txInflight = s.txInflight := rfl
@[simp] theorem issueNext_rxFifo (s : State) (x : Transaction) : (s.issueNext x).rxFifo = s.rxFifo := rfl
@[simp] theorem issueNext_mem (s : State) (x : Transaction) : (s.issueNext x).mem = s.mem := rfl
@[simp] theorem issueNext_wireOut (s : State) (x : Transaction) : (s.issueNext x).wireOut = s.wireOut := rfl
@[simp] theorem issueNext_faults (s : State) (x : Transaction) : (s.issueNext x).faults = s.faults := rfl
@[simp] theorem issueNext_drawn (s : State) (x : Transaction) : (s.issueNext x).drawn = s.drawn := rfl
@[simp] theorem issueNext_busData (s : State) (x : Transaction) : (s.issueNext x).busData = s.busData := rfl
@[simp] theorem issueNext_tasks (s : State) (x : Transaction) : (s.issueNext x).tasks = s.tasks ++ [⟨[transactionForm x], 0, [], [], .running⟩] := rfl
@[simp] theorem issueNext_agenda (s : State) (x : Transaction) : (s.issueNext x).agenda = .host s.tasks.length :: s.agenda := rfl

/-! ## emitEntry: a frame emitted -/

@[simp] theorem emitEntry_params (s : State) (e : TxEntry) : (emitEntry s e).params = s.params := rfl
@[simp] theorem emitEntry_regs (s : State) (e : TxEntry) : (emitEntry s e).regs = s.regs := rfl
@[simp] theorem emitEntry_inReset (s : State) (e : TxEntry) : (emitEntry s e).inReset = s.inReset := rfl
@[simp] theorem emitEntry_eerdPending (s : State) (e : TxEntry) : (emitEntry s e).eerdPending = s.eerdPending := rfl
@[simp] theorem emitEntry_eerdReqAddr (s : State) (e : TxEntry) : (emitEntry s e).eerdReqAddr = s.eerdReqAddr := rfl
@[simp] theorem emitEntry_txInflight (s : State) (e : TxEntry) : (emitEntry s e).txInflight = s.txInflight := rfl
@[simp] theorem emitEntry_rxFifo (s : State) (e : TxEntry) : (emitEntry s e).rxFifo = s.rxFifo := rfl
@[simp] theorem emitEntry_mem (s : State) (e : TxEntry) : (emitEntry s e).mem = s.mem := rfl
@[simp] theorem emitEntry_wireOut (s : State) (e : TxEntry) : (emitEntry s e).wireOut = s.wireOut ++ [⟨e.frame ++ drawBytes s.drawn (padLength s.regs.tctl.psp e.frame), e.ifcs⟩] := rfl
@[simp] theorem emitEntry_faults (s : State) (e : TxEntry) : (emitEntry s e).faults = s.faults := rfl
@[simp] theorem emitEntry_drawn (s : State) (e : TxEntry) : (emitEntry s e).drawn = s.drawn + padLength s.regs.tctl.psp e.frame := rfl
@[simp] theorem emitEntry_busData (s : State) (e : TxEntry) : (emitEntry s e).busData = s.busData := rfl
@[simp] theorem emitEntry_tasks (s : State) (e : TxEntry) : (emitEntry s e).tasks = s.tasks := rfl
@[simp] theorem emitEntry_agenda (s : State) (e : TxEntry) : (emitEntry s e).agenda = s.agenda := rfl

end Sys2Proof.Machine
end

