-- ==== Sys2Proof/Laws/Ops.lean ====
section
/-! SUPPORT. What each shared operation can do, said once: ring arithmetic, CSR reads, hardware-owned
bytes, deposits, loads, and the dispatch's frame. -/

namespace Sys2Proof.Machine

/-! ## Ring arithmetic (R147) -/

theorem ringDist_lt (t h : Nat) {n : Nat} (hn : 0 < n) : ringDist t h n < n := by
  unfold ringDist
  have h1 := Int.emod_nonneg ((t : Int) - h) (by omega : (n : Int) ≠ 0)
  have h2 := Int.emod_lt_of_pos ((t : Int) - h) (by omega : (0 : Int) < n)
  omega

/-- Inside the ring the distance is the difference, or wraps once. -/
theorem ringDist_eq {t h n : Nat} (ht : t < n) (hh : h < n) :
    ringDist t h n = if h ≤ t then t - h else n + t - h := by
  unfold ringDist
  split
  · rw [Int.emod_eq_of_lt (by omega) (by omega)]; omega
  · have : ((t : Int) - h) % n = (t : Int) - h + n := by
      rw [← Int.add_emod_right, Int.emod_eq_of_lt (by omega) (by omega)]
    rw [this]; omega

/-- R105, R122: when a tail write faults, by cases. -/
theorem tailFault_eq_none {r : RingRegs} {t : Nat} {f : Nat → Fault} {g : Nat → Nat → Fault} :
    r.tailFault t f g = none ↔
      (r.slots = 0 ∧ t = 0) ∨
      (r.slots ≠ 0 ∧ t < r.slots ∧
        ringDist r.tail.toNat r.head.toNat r.slots ≤ ringDist t r.head.toNat r.slots) := by
  unfold RingRegs.tailFault
  by_cases h0 : r.slots = 0
  · by_cases ht : t = 0 <;> simp [h0, ht]
  · by_cases h1 : r.slots ≤ t
    · simp [h0, h1]
    · by_cases h2 : ringDist t r.head.toNat r.slots < ringDist r.tail.toNat r.head.toNat r.slots
      · simp [h0, h1, h2]
      · simp [h0, h1, h2]; omega

/-! ## CSR reads (R70) -/

theorem readCells_eq_next {s t : State} {o : Nat} {c : RegCell 32} {x : Word} :
    readCells s o c x = .next t ↔ ∃ v, c = some v ∧ t = s.returnDrawn v x := by
  cases c <;> simp [readCells, eq_comm]

theorem readCell_eq_next {s t : State} {o : Nat} {c : RegCell 32} :
    readCell s o c = .next t ↔ ∃ v, c = some v ∧ t = s.returnValue v := by
  cases c <;> simp [readCell, eq_comm]

/-! ## Hardware-owned bytes (R48) -/

/-- No byte of a range is hardware-owned exactly when `firstOwner` finds no owner. -/
theorem firstOwner_eq_none {s : State} {a n : Nat} :
    firstOwner s a n = none ↔ ∀ x, a ≤ x → x < a + n → hwOwner s x = none := by
  induction n generalizing a with
  | zero => simp [firstOwner]; omega
  | succ n ih =>
    simp only [firstOwner]
    cases h : hwOwner s a with
    | some k =>
      simp only [reduceCtorEq, false_iff]
      intro hx
      simpa [h] using hx a (Nat.le_refl a) (by omega)
    | none =>
      simp only
      rw [ih]
      constructor
      · intro hx x h1 h2
        rcases Nat.eq_or_lt_of_le h1 with rfl | h1
        · exact h
        · exact hx x h1 (by omega)
      · exact fun hx x h1 h2 => hx x (by omega) (by omega)

/-! ## DMA (R37) -/

theorem dmaInRange_eq {s : State} {a n : Nat} : dmaInRange s a n = true ↔ n = 0 ∨ a + n ≤ s.params.memBytes := by
  simp [dmaInRange]

/-! ## Deposits (R132) -/

/-- A plan that passed its checks: one deposit per chunk, in order, each inside memory. -/
theorem planDeposits_ok {s : State} {base slot : Nat} {cs : List Frame} {ds : List Deposit}
    (h : planDeposits s base slot cs = .ok ds) :
    ds.map Deposit.bytes = cs ∧
      ∀ d ∈ ds, d.da + 16 ≤ s.params.memBytes ∧ (d.bytes = [] ∨ d.addr + d.bytes.length ≤ s.params.memBytes) := by
  induction cs generalizing slot ds with
  | nil => simp [planDeposits] at h; subst h; simp
  | cons c cs ih =>
    simp only [planDeposits] at h
    split at h
    · cases h
    · split at h
      · cases h
      · next h16 =>
        split at h
        · cases h
        · next ha =>
          split at h
          · cases h
          · next ds' hds =>
            simp only [Except.ok.injEq] at h
            subst h
            obtain ⟨h1, h2⟩ := ih hds
            simp only [Bool.not_eq_true', Bool.not_eq_false, dmaInRange_eq] at h16 ha
            refine ⟨by simp [h1], fun d hd => ?_⟩
            rcases List.mem_cons.1 hd with rfl | hd
            · refine ⟨by
                show descAddr base slot + 16 ≤ _
                rcases h16 with h16 | h16
                · cases h16
                · exact h16, ?_⟩
              rcases ha with ha | ha
              · exact Or.inl (List.length_eq_zero_iff.1 ha)
              · exact Or.inr ha
            · exact h2 d hd

/-- The bytes a deposit can write: its chunk in its buffer, bytes 8 to 15 of its descriptor. -/
def Deposit.covers (d : Deposit) (x : Nat) : Prop :=
  (d.addr ≤ x ∧ x < d.addr + d.bytes.length) ∨ (d.da + 8 ≤ x ∧ x < d.da + 16)

/-- Deposits leave every byte they do not cover alone. -/
theorem applyDeposits_read {m : Memory} {k : Nat} {ds : List Deposit} {x : Nat}
    (h : ∀ d ∈ ds, ¬ d.covers x) : Memory.read (applyDeposits m k ds) x = Memory.read m x := by
  induction ds generalizing m k with
  | nil => rfl
  | cons d ds ih =>
    have hd := h d (by simp)
    simp only [Deposit.covers] at hd
    rw [applyDeposits, ih fun e he => h e (List.mem_cons_of_mem _ he)]
    rw [Memory.read_writeBytes_outside _ _ _ (by simp only [writeBackBytes, List.length_cons, List.length_nil]; omega)]
    rw [Memory.read_writeBytes_outside _ _ _ (by omega)]

/-- Deposits keep the canonical form. -/
theorem applyDeposits_wf {m : Memory} (h : Memory.wf m = true) (k : Nat) (ds : List Deposit) :
    Memory.wf (applyDeposits m k ds) = true := by
  induction ds generalizing m k with
  | nil => exact h
  | cons d ds ih => exact ih (Memory.writeBytes_wf (Memory.writeBytes_wf h _ _) _ _) _

/-- Deposits inside memory list nothing beyond it. -/
theorem applyDeposits_below {n : Nat} {m : Memory} (h : Memory.below n m) (k : Nat) {ds : List Deposit}
    (hd : ∀ d ∈ ds, d.da + 16 ≤ n ∧ (d.bytes = [] ∨ d.addr + d.bytes.length ≤ n)) :
    Memory.below n (applyDeposits m k ds) := by
  induction ds generalizing m k with
  | nil => exact h
  | cons d ds ih =>
    have h1 := hd d (by simp)
    refine ih (Memory.writeBytes_below (Memory.writeBytes_below h _ h1.2) _ (Or.inr ?_)) _
      fun e he => hd e (List.mem_cons_of_mem _ he)
    simp only [writeBackBytes, List.length_cons, List.length_nil]
    omega

/-- The chunks of a frame join to its first `b * k` bytes. -/
theorem chunks_flatten (b k : Nat) (q : Frame) : (chunks b k q).flatten = q.take (b * k) := by
  induction k generalizing q with
  | zero => simp [chunks]
  | succ k ih =>
    rw [chunks, List.flatten_cons, ih, ← List.take_add, Nat.mul_succ, Nat.add_comm]

@[simp] theorem chunks_length (b k : Nat) (q : Frame) : (chunks b k q).length = k := by
  induction k generalizing q with
  | zero => rfl
  | succ k ih => simp [chunks, ih]

/-! ## Loads (R49) -/

/-- A byte load changes at most the count of draws. -/
theorem loadByte_state (s : State) (x : Nat) : ∃ k, (loadByte s x).2 = { s with drawn := k } := by
  unfold loadByte
  split
  · exact ⟨_, rfl⟩
  · exact ⟨s.drawn, rfl⟩

/-- A load changes at most the count of draws. -/
theorem loadBytes_state (s : State) (x n : Nat) : ∃ k, (loadBytes s x n).2 = { s with drawn := k } := by
  induction n generalizing s x with
  | zero => exact ⟨s.drawn, rfl⟩
  | succ n ih =>
    obtain ⟨k, hk⟩ := loadByte_state s x
    obtain ⟨j, hj⟩ := ih (loadByte s x).2 (x + 1)
    exact ⟨j, by simp only [loadBytes]; rw [hj, hk]⟩

/-! ## A reset's emissions (R177) -/

/-- Emitting some of the frames in flight changes at most wire_out and the count of draws. -/
theorem emitSome_state (es : List TxEntry) (s : State) :
    ∃ out k, emitSome es s = { s with wireOut := s.wireOut ++ out, drawn := k } := by
  induction es generalizing s with
  | nil => exact ⟨[], s.drawn, by simp [emitSome]⟩
  | cons e es ih =>
    simp only [emitSome]
    split
    · obtain ⟨out, k, h⟩ := ih (emitEntry { s with drawn := s.drawn + 1 } e)
      exact ⟨_, k, by rw [h]; simp [emitEntry, List.append_assoc]; rfl⟩
    · obtain ⟨out, k, h⟩ := ih { s with drawn := s.drawn + 1 }
      exact ⟨out, k, h⟩

/-! ## The dispatch's frame -/

/-- What a CSR transaction never touches: parameters, memory, the queues, the link, the fault record, the
tasks and the agenda. -/
theorem exec_frame {i : Instr} {s t : State} (h : exec i s = .next t) :
    t.params = s.params ∧ t.mem = s.mem ∧ t.txInflight = s.txInflight ∧ t.rxFifo = s.rxFifo ∧
      t.wireOut = s.wireOut ∧ t.faults = s.faults ∧ t.tasks = s.tasks ∧ t.agenda = s.agenda := by
  cases i <;>
    simp only [exec, execCsrrCtrl, execCsrwCtrl, execCsrrStatus, execCsrwStatus, execCsrrIcr, execCsrwIcr,
      execCsrrIcs, execCsrwIcs, execCsrrIms, execCsrwIms, execCsrrImc, execCsrwImc, execCsrrEecd,
      execCsrwEecd, execCsrrEerd, execCsrwEerd, execCsrrTctl, execCsrwTctl, execCsrrTipg, execCsrwTipg,
      execCsrrTdbal, execCsrwTdbal, execCsrrTdbah, execCsrwTdbah, execCsrrTdlen, execCsrwTdlen,
      execCsrrTdh, execCsrwTdh, execCsrrTdt, execCsrwTdt, execCsrrRctl, execCsrwRctl, execCsrrRdbal,
      execCsrwRdbal, execCsrrRdbah, execCsrwRdbah, execCsrrRdlen, execCsrwRdlen, execCsrrRdh,
      execCsrwRdh, execCsrrRdt, execCsrwRdt, execCsrrRal, execCsrwRal, execCsrrRah, execCsrwRah,
      execCsrrMta, execCsrwMta, readCells_eq_next, readCell_eq_next] at h <;>
    (repeat' split at h) <;>
    (try obtain ⟨v, _, h⟩ := h) <;>
    (first | cases h | subst h | skip) <;>
    exact ⟨rfl, rfl, rfl, rfl, rfl, rfl, rfl, rfl⟩

/-! ## One step -/

/-- What a step that goes on can be: an idle step, a turn of an agent not enabled, or the enabled agent's
step with the turn taken off the agenda. -/
theorem step_cases {s t : State} (h : step s = .next t) :
    s.faults = [] ∧
      ((s.agenda = [] ∧ t = s) ∨
        ∃ u rest, s.agenda = u :: rest ∧
          ((turnEnabled { s with agenda := rest } u = false ∧ t = { s with agenda := rest }) ∨
            (turnEnabled { s with agenda := rest } u = true ∧ turnStep { s with agenda := rest } u = .next t))) := by
  unfold step stepFault at h
  cases hf : s.faults with
  | cons f fs => simp [hf] at h
  | nil =>
    refine ⟨rfl, ?_⟩
    simp only [hf, List.head?_nil, takeTurn] at h
    cases ha : s.agenda with
    | nil => simp only [ha, Host.Outcome.next.injEq] at h; exact Or.inl ⟨rfl, h.symm⟩
    | cons u rest =>
      refine Or.inr ⟨u, rest, rfl, ?_⟩
      simp only [ha, runTurn] at h
      split at h
      · next he => exact Or.inr ⟨he, h⟩
      · next he =>
        simp only [Host.Outcome.next.injEq] at h
        exact Or.inl ⟨by simpa using he, h.symm⟩

/-- Composition goes on exactly when both parts do. -/
theorem andThen_eq_next {r : Result} {k : State → Result} {t : State} :
    andThen r k = .next t ↔ ∃ u, r = .next u ∧ k u = .next t := by
  cases r <;> simp [andThen]

end Sys2Proof.Machine
end

