-- ==== Sys2Proof/Laws/PerInstr.lean ====
section
/-! SUPPORT. Statements about every instruction as syntax, one lemma per constructor. -/

namespace Sys2Proof.Laws

/-- Two rows of the opcode table do not match the same key: they differ on a bit both compare. -/
def rowsDisjoint (a b : Row) : Bool := (a.pattern ^^^ b.pattern) &&& a.mask &&& b.mask != 0#18

/-- R57: no two rows of spec/opcode_table.json match the same key. -/
theorem opcodeTable_disjoint : opcodeTable.Pairwise fun a b => rowsDisjoint a b = true := by decide

/-- Rows that are disjoint do not both match a key. -/
theorem not_both_match {a b : Row} {key : BitVec 18} (h : rowsDisjoint a b = true)
    (ha : key &&& a.mask = a.pattern) (hb : key &&& b.mask = b.pattern) : False := by
  have hz : (a.pattern ^^^ b.pattern) &&& a.mask &&& b.mask = 0#18 := by
    rw [← ha, ← hb]
    ext i hi
    simp only [BitVec.getElem_and, BitVec.getElem_xor, BitVec.getElem_zero]
    cases key[i] <;> cases a.mask[i] <;> cases b.mask[i] <;> rfl
  simp [rowsDisjoint, hz] at h

/-- In a table of disjoint rows the row that matches a key is the one found. -/
theorem findRow_of_mem {rows : List Row} (h : rows.Pairwise fun a b => rowsDisjoint a b = true) {r : Row}
    {key : BitVec 18} (hm : r ∈ rows) (hk : key &&& r.mask = r.pattern) : findRow rows key = some r := by
  induction rows with
  | nil => simp at hm
  | cons q rows ih =>
    obtain ⟨hq, hrows⟩ := List.pairwise_cons.1 h
    rcases List.mem_cons.1 hm with rfl | hm
    · simp [findRow, hk]
    · have : ¬ (key &&& q.mask = q.pattern) := fun hq' => not_both_match (hq r hm) hq' hk
      simp only [findRow, this, if_false]
      exact ih hrows hm

/-- What `findRow` finds is a row of the table that matches. -/
theorem findRow_some {rows : List Row} {key : BitVec 18} {r : Row} (h : findRow rows key = some r) :
    r ∈ rows ∧ key &&& r.mask = r.pattern := by
  induction rows with
  | nil => simp [findRow] at h
  | cons q rows ih =>
    simp only [findRow] at h
    split at h
    · next hq => cases h; exact ⟨by simp, hq⟩
    · exact ⟨List.mem_cons_of_mem _ (ih h).1, (ih h).2⟩

/-- R57: a key that matches row `n` of the table decodes by that row. -/
theorem decodeKey_row (n : Nat) (hn : n < opcodeTable.length) (key : BitVec 18) (d : Word)
    (hk : key &&& opcodeTable[n].mask = opcodeTable[n].pattern) :
    decodeKey key d = some (opcodeTable[n].build key d) := by
  rw [decodeKey, findRow_of_mem opcodeTable_disjoint (List.getElem_mem hn) hk]
  rfl

end Sys2Proof.Laws

namespace Sys2Proof.Laws.KeyRoundTrip

/-- R57, R58: the key of an instruction is aligned and decodes, with its data, to the instruction. -/
def Statement (i : Instr) : Prop :=
  i.key.extractLsb' 0 2 = 0#2 ∧ decodeKey i.key (i.data.getD 0#32) = some i

/-- R57: an aligned key that matches row `n` decodes by that row. -/
theorem fixed_key (n : Nat) (hn : n < opcodeTable.length) (key : BitVec 18) (v : Word)
    (h0 : key.extractLsb' 0 2 = 0#2) (hk : key &&& opcodeTable[n].mask = opcodeTable[n].pattern) :
    key.extractLsb' 0 2 = 0#2 ∧ decodeKey key v = some (opcodeTable[n].build key v) :=
  ⟨h0, Laws.decodeKey_row n hn key v hk⟩

/-- R56, R57: a key is aligned, matches a row's mask and pattern, and its index field is `k`. -/
def KeyFits {w : Nat} (key pattern mask : BitVec 18) (index : BitVec 18 → BitVec w) (k : BitVec w) : Prop :=
  key.extractLsb' 0 2 = 0#2 ∧ key &&& mask = pattern ∧ index key = k

theorem mta_read_key (i : BitVec 7) :
    KeyFits (BitVec.ofNat 18 (0x05200 + 4 * i.toNat)) 0x05200#18 0x3FE03#18 mtaIndex i :=
  (show ∀ k : Fin 128, (BitVec.ofNat 18 (0x05200 + 4 * k.val)).extractLsb' 0 2 = 0#2 ∧
      BitVec.ofNat 18 (0x05200 + 4 * k.val) &&& 0x3FE03#18 = 0x05200#18 ∧
      mtaIndex (BitVec.ofNat 18 (0x05200 + 4 * k.val)) = BitVec.ofFin k from by decide +kernel) i.toFin

theorem mta_write_key (i : BitVec 7) :
    KeyFits (BitVec.ofNat 18 (0x05200 + 4 * i.toNat + 0x20000)) 0x25200#18 0x3FE03#18 mtaIndex i :=
  (show ∀ k : Fin 128, (BitVec.ofNat 18 (0x05200 + 4 * k.val + 0x20000)).extractLsb' 0 2 = 0#2 ∧
      BitVec.ofNat 18 (0x05200 + 4 * k.val + 0x20000) &&& 0x3FE03#18 = 0x25200#18 ∧
      mtaIndex (BitVec.ofNat 18 (0x05200 + 4 * k.val + 0x20000)) = BitVec.ofFin k from by decide +kernel) i.toFin

theorem ral_read_key (n : BitVec 4) :
    KeyFits (BitVec.ofNat 18 (0x05400 + 8 * n.toNat)) 0x05400#18 0x3FF87#18 raIndex n :=
  (show ∀ k : Fin 16, (BitVec.ofNat 18 (0x05400 + 8 * k.val)).extractLsb' 0 2 = 0#2 ∧
      BitVec.ofNat 18 (0x05400 + 8 * k.val) &&& 0x3FF87#18 = 0x05400#18 ∧
      raIndex (BitVec.ofNat 18 (0x05400 + 8 * k.val)) = BitVec.ofFin k from by decide +kernel) n.toFin

theorem ral_write_key (n : BitVec 4) :
    KeyFits (BitVec.ofNat 18 (0x05400 + 8 * n.toNat + 0x20000)) 0x25400#18 0x3FF87#18 raIndex n :=
  (show ∀ k : Fin 16, (BitVec.ofNat 18 (0x05400 + 8 * k.val + 0x20000)).extractLsb' 0 2 = 0#2 ∧
      BitVec.ofNat 18 (0x05400 + 8 * k.val + 0x20000) &&& 0x3FF87#18 = 0x25400#18 ∧
      raIndex (BitVec.ofNat 18 (0x05400 + 8 * k.val + 0x20000)) = BitVec.ofFin k from by decide +kernel) n.toFin

theorem rah_read_key (n : BitVec 4) :
    KeyFits (BitVec.ofNat 18 (0x05404 + 8 * n.toNat)) 0x05404#18 0x3FF87#18 raIndex n :=
  (show ∀ k : Fin 16, (BitVec.ofNat 18 (0x05404 + 8 * k.val)).extractLsb' 0 2 = 0#2 ∧
      BitVec.ofNat 18 (0x05404 + 8 * k.val) &&& 0x3FF87#18 = 0x05404#18 ∧
      raIndex (BitVec.ofNat 18 (0x05404 + 8 * k.val)) = BitVec.ofFin k from by decide +kernel) n.toFin

theorem rah_write_key (n : BitVec 4) :
    KeyFits (BitVec.ofNat 18 (0x05404 + 8 * n.toNat + 0x20000)) 0x25404#18 0x3FF87#18 raIndex n :=
  (show ∀ k : Fin 16, (BitVec.ofNat 18 (0x05404 + 8 * k.val + 0x20000)).extractLsb' 0 2 = 0#2 ∧
      BitVec.ofNat 18 (0x05404 + 8 * k.val + 0x20000) &&& 0x3FF87#18 = 0x25404#18 ∧
      raIndex (BitVec.ofNat 18 (0x05404 + 8 * k.val + 0x20000)) = BitVec.ofFin k from by decide +kernel) n.toFin

theorem csrrCtrl : Statement .csrrCtrl :=
  fixed_key 0 (by decide) 0x00000#18 0#32 (by decide) (by decide)
theorem csrwCtrl (v : Word) : Statement (.csrwCtrl v) :=
  fixed_key 1 (by decide) (BitVec.ofNat 18 (0x00000 + 0x20000)) v (by decide) (by decide)
theorem csrrStatus : Statement .csrrStatus :=
  fixed_key 2 (by decide) 0x00008#18 0#32 (by decide) (by decide)
theorem csrwStatus (v : Word) : Statement (.csrwStatus v) :=
  fixed_key 3 (by decide) (BitVec.ofNat 18 (0x00008 + 0x20000)) v (by decide) (by decide)
theorem csrrEecd : Statement .csrrEecd :=
  fixed_key 4 (by decide) 0x00010#18 0#32 (by decide) (by decide)
theorem csrwEecd (v : Word) : Statement (.csrwEecd v) :=
  fixed_key 5 (by decide) (BitVec.ofNat 18 (0x00010 + 0x20000)) v (by decide) (by decide)
theorem csrrEerd : Statement .csrrEerd :=
  fixed_key 6 (by decide) 0x00014#18 0#32 (by decide) (by decide)
theorem csrwEerd (v : Word) : Statement (.csrwEerd v) :=
  fixed_key 7 (by decide) (BitVec.ofNat 18 (0x00014 + 0x20000)) v (by decide) (by decide)
theorem csrrIcr : Statement .csrrIcr :=
  fixed_key 8 (by decide) 0x000C0#18 0#32 (by decide) (by decide)
theorem csrwIcr (v : Word) : Statement (.csrwIcr v) :=
  fixed_key 9 (by decide) (BitVec.ofNat 18 (0x000C0 + 0x20000)) v (by decide) (by decide)
theorem csrrIcs : Statement .csrrIcs :=
  fixed_key 10 (by decide) 0x000C8#18 0#32 (by decide) (by decide)
theorem csrwIcs (v : Word) : Statement (.csrwIcs v) :=
  fixed_key 11 (by decide) (BitVec.ofNat 18 (0x000C8 + 0x20000)) v (by decide) (by decide)
theorem csrrIms : Statement .csrrIms :=
  fixed_key 12 (by decide) 0x000D0#18 0#32 (by decide) (by decide)
theorem csrwIms (v : Word) : Statement (.csrwIms v) :=
  fixed_key 13 (by decide) (BitVec.ofNat 18 (0x000D0 + 0x20000)) v (by decide) (by decide)
theorem csrrImc : Statement .csrrImc :=
  fixed_key 14 (by decide) 0x000D8#18 0#32 (by decide) (by decide)
theorem csrwImc (v : Word) : Statement (.csrwImc v) :=
  fixed_key 15 (by decide) (BitVec.ofNat 18 (0x000D8 + 0x20000)) v (by decide) (by decide)
theorem csrrRctl : Statement .csrrRctl :=
  fixed_key 16 (by decide) 0x00100#18 0#32 (by decide) (by decide)
theorem csrwRctl (v : Word) : Statement (.csrwRctl v) :=
  fixed_key 17 (by decide) (BitVec.ofNat 18 (0x00100 + 0x20000)) v (by decide) (by decide)
theorem csrrTctl : Statement .csrrTctl :=
  fixed_key 28 (by decide) 0x00400#18 0#32 (by decide) (by decide)
theorem csrwTctl (v : Word) : Statement (.csrwTctl v) :=
  fixed_key 29 (by decide) (BitVec.ofNat 18 (0x00400 + 0x20000)) v (by decide) (by decide)
theorem csrrTipg : Statement .csrrTipg :=
  fixed_key 30 (by decide) 0x00410#18 0#32 (by decide) (by decide)
theorem csrwTipg (v : Word) : Statement (.csrwTipg v) :=
  fixed_key 31 (by decide) (BitVec.ofNat 18 (0x00410 + 0x20000)) v (by decide) (by decide)
theorem csrrRdbal : Statement .csrrRdbal :=
  fixed_key 18 (by decide) 0x02800#18 0#32 (by decide) (by decide)
theorem csrwRdbal (v : Word) : Statement (.csrwRdbal v) :=
  fixed_key 19 (by decide) (BitVec.ofNat 18 (0x02800 + 0x20000)) v (by decide) (by decide)
theorem csrrRdbah : Statement .csrrRdbah :=
  fixed_key 20 (by decide) 0x02804#18 0#32 (by decide) (by decide)
theorem csrwRdbah (v : Word) : Statement (.csrwRdbah v) :=
  fixed_key 21 (by decide) (BitVec.ofNat 18 (0x02804 + 0x20000)) v (by decide) (by decide)
theorem csrrRdlen : Statement .csrrRdlen :=
  fixed_key 22 (by decide) 0x02808#18 0#32 (by decide) (by decide)
theorem csrwRdlen (v : Word) : Statement (.csrwRdlen v) :=
  fixed_key 23 (by decide) (BitVec.ofNat 18 (0x02808 + 0x20000)) v (by decide) (by decide)
theorem csrrRdh : Statement .csrrRdh :=
  fixed_key 24 (by decide) 0x02810#18 0#32 (by decide) (by decide)
theorem csrwRdh (v : Word) : Statement (.csrwRdh v) :=
  fixed_key 25 (by decide) (BitVec.ofNat 18 (0x02810 + 0x20000)) v (by decide) (by decide)
theorem csrrRdt : Statement .csrrRdt :=
  fixed_key 26 (by decide) 0x02818#18 0#32 (by decide) (by decide)
theorem csrwRdt (v : Word) : Statement (.csrwRdt v) :=
  fixed_key 27 (by decide) (BitVec.ofNat 18 (0x02818 + 0x20000)) v (by decide) (by decide)
theorem csrrTdbal : Statement .csrrTdbal :=
  fixed_key 32 (by decide) 0x03800#18 0#32 (by decide) (by decide)
theorem csrwTdbal (v : Word) : Statement (.csrwTdbal v) :=
  fixed_key 33 (by decide) (BitVec.ofNat 18 (0x03800 + 0x20000)) v (by decide) (by decide)
theorem csrrTdbah : Statement .csrrTdbah :=
  fixed_key 34 (by decide) 0x03804#18 0#32 (by decide) (by decide)
theorem csrwTdbah (v : Word) : Statement (.csrwTdbah v) :=
  fixed_key 35 (by decide) (BitVec.ofNat 18 (0x03804 + 0x20000)) v (by decide) (by decide)
theorem csrrTdlen : Statement .csrrTdlen :=
  fixed_key 36 (by decide) 0x03808#18 0#32 (by decide) (by decide)
theorem csrwTdlen (v : Word) : Statement (.csrwTdlen v) :=
  fixed_key 37 (by decide) (BitVec.ofNat 18 (0x03808 + 0x20000)) v (by decide) (by decide)
theorem csrrTdh : Statement .csrrTdh :=
  fixed_key 38 (by decide) 0x03810#18 0#32 (by decide) (by decide)
theorem csrwTdh (v : Word) : Statement (.csrwTdh v) :=
  fixed_key 39 (by decide) (BitVec.ofNat 18 (0x03810 + 0x20000)) v (by decide) (by decide)
theorem csrrTdt : Statement .csrrTdt :=
  fixed_key 40 (by decide) 0x03818#18 0#32 (by decide) (by decide)
theorem csrwTdt (v : Word) : Statement (.csrwTdt v) :=
  fixed_key 41 (by decide) (BitVec.ofNat 18 (0x03818 + 0x20000)) v (by decide) (by decide)
theorem csrrMta (i : BitVec 7) : Statement (.csrrMta i) :=
  have h := mta_read_key i
  ⟨h.1, (Laws.decodeKey_row 42 (by decide) _ _ h.2.1).trans (congrArg (fun k => some (Instr.csrrMta k)) h.2.2)⟩
theorem csrwMta (i : BitVec 7) (v : Word) : Statement (.csrwMta i v) :=
  have h := mta_write_key i
  ⟨h.1, (Laws.decodeKey_row 43 (by decide) _ _ h.2.1).trans (congrArg (fun k => some (Instr.csrwMta k v)) h.2.2)⟩
theorem csrrRal (n : BitVec 4) : Statement (.csrrRal n) :=
  have h := ral_read_key n
  ⟨h.1, (Laws.decodeKey_row 44 (by decide) _ _ h.2.1).trans (congrArg (fun k => some (Instr.csrrRal k)) h.2.2)⟩
theorem csrwRal (n : BitVec 4) (v : Word) : Statement (.csrwRal n v) :=
  have h := ral_write_key n
  ⟨h.1, (Laws.decodeKey_row 45 (by decide) _ _ h.2.1).trans (congrArg (fun k => some (Instr.csrwRal k v)) h.2.2)⟩
theorem csrrRah (n : BitVec 4) : Statement (.csrrRah n) :=
  have h := rah_read_key n
  ⟨h.1, (Laws.decodeKey_row 46 (by decide) _ _ h.2.1).trans (congrArg (fun k => some (Instr.csrrRah k)) h.2.2)⟩
theorem csrwRah (n : BitVec 4) (v : Word) : Statement (.csrwRah n v) :=
  have h := rah_write_key n
  ⟨h.1, (Laws.decodeKey_row 47 (by decide) _ _ h.2.1).trans (congrArg (fun k => some (Instr.csrwRah k v)) h.2.2)⟩

end Sys2Proof.Laws.KeyRoundTrip
end

