-- ==== Sys2Proof/Laws/RefHost.lean ====
section
/-! SUPPORT. What the reference host's shared pieces can do, said once. -/

namespace Sys2Proof.Machine

/-- The table's value when the temporary holds a slot at or above `n`. -/
theorem evalExpr_slotTable_of_le {temps : List (Nat × Int)} {t n s : Nat} {f : Nat → Nat}
    (h : tempValue temps t = (s : Int)) (hs : n ≤ s) : evalExpr temps (slotTable t f n) = 0 := by
  induction n with
  | zero => rfl
  | succ n ih =>
    have hn : ¬(s : Int) ≤ n := by omega
    simp [slotTable, num, evalExpr, h, ih (by omega), hn]

/-- The table's value when the temporary holds the slot `s`. -/
theorem evalExpr_slotTable {temps : List (Nat × Int)} {t n s : Nat} {f : Nat → Nat}
    (h : tempValue temps t = (s : Int)) (hs : s < n) : evalExpr temps (slotTable t f n) = f s := by
  induction n with
  | zero => omega
  | succ n ih =>
    rcases Nat.lt_succ_iff_lt_or_eq.mp hs with hlt | rfl
    · have hn : ¬(n : Int) ≤ s := by omega
      simp [slotTable, num, evalExpr, h, ih hlt, hn]
    · simp [slotTable, num, evalExpr, h, evalExpr_slotTable_of_le h (Nat.le_refl s)]

/-- R145: the steady tasks start only beside a bring-up task that returned 0. -/
theorem startSteady_eq_self {s : State} {h : RefHost} {v2p : Nat → Nat} {k : Nat}
    (hk : (s.tasks[k]?).map Task.status ≠ some (.returned 0)) : s.startSteady h v2p k = s := by
  simp [State.startSteady, hk]

end Sys2Proof.Machine
end

