-- ==== Sys2Proof/Tests/Slice0.lean ====
section
/-! SUPPORT. Tests: the WellFormed smoke tests, decoding of words written out from R56 to R58, single steps of
the spec's vectors (95_test_vectors.md: CA, CS, IN, EE, TR, TX, FI, RD, OW, and the rules' own examples), and
a witness for every statement that has hypotheses, each clause at a boundary value. -/

namespace Sys2Proof.Tests

open Sys2Proof.Machine

/-! ## Helpers -/

/-- The step goes on to a state that meets `p`. -/
def goesOn (r : Result) (p : State → Bool) : Bool :=
  match r with
  | .next s => p s
  | _ => false

/-- The step faults with `f`. -/
def faultsWith (r : Result) (f : Fault) : Bool :=
  match r with
  | .fault g => g == f
  | _ => false

/-- Masking off the drawn bits of a read leaves the stored ones. -/
theorem drawn_masked (s : State) (v x m : Word) (h : x &&& m = 0#32) :
    (s.returnDrawn v x).busData &&& m = v &&& m := by
  apply BitVec.eq_of_getLsbD_eq
  intro i _
  have hi := congrArg (fun w => w.getLsbD i) h
  simp only [BitVec.getLsbD_and, BitVec.getLsbD_zero] at hi
  simp only [returnDrawn_busData, BitVec.getLsbD_and, BitVec.getLsbD_or, BitVec.getLsbD_not]
  cases hx : x.getLsbD i <;> cases hm : m.getLsbD i <;> simp_all

/-- Reset with other registers. -/
def regState (f : Csrs → Csrs) : State := { State.reset with regs := f State.reset.regs }

/-- A TX ring of `8 * len` slots at 0x00100000. -/
def ringAt (base : BitVec 28) (len : BitVec 13) (head tail : BitVec 16) : RingRegs :=
  ⟨some base, some 0#32, len, head, tail⟩

/-- A state with a TX ring, quiet. -/
def txRing (len : BitVec 13) (head tail : BitVec 16) : State :=
  regState fun r => { r with tx := ringAt 0x0010000 len head tail }

/-- A state with an RX ring, the receiver off. -/
def rxRing (len : BitVec 13) (head tail : BitVec 16) : State :=
  regState fun r => { r with rx := ringAt 0x0011000 len head tail }

/-- RCTL = 0x04008002 (EN, BAM, SECRC), with the receiver on. -/
def rctlOn : Rctl := { Rctl.reset with en := true, bam := true, secrc := true }

/-- TCTL = 0x0004010A (EN, PSP, CT = 0x10, COLD = 0x40). -/
def tctlOn : Tctl := ⟨true, true, some 0x10#8, some 0x40#10, false, some 0#1⟩

/-- Slot 0 of the TX ring published: its descriptor, and 8 bytes at 0x00200000. -/
def txArmed (len : Nat) (cmd sta : Byte) : State :=
  { regState fun r => { r with tctl := tctlOn, tx := ringAt 0x0010000 4 0 1 } with
    mem :=
      [(0x00100002, 0x20#8)] ++ (if len % 256 = 0 then [] else [(0x00100008, BitVec.ofNat 8 len)]) ++
      (if len / 256 = 0 then [] else [(0x00100009, BitVec.ofNat 8 (len / 256))]) ++
      [(0x0010000B, cmd)] ++ (if sta = 0#8 then [] else [(0x0010000C, sta)]) ++
      [(0x00200000, 1#8), (0x00200001, 2#8), (0x00200002, 3#8), (0x00200003, 4#8),
        (0x00200004, 5#8), (0x00200005, 6#8), (0x00200006, 7#8), (0x00200007, 8#8)] }

/-- The entry TXF makes of slot 0 (R106's example). -/
def entry0 (rs ifcs : Bool) (staHi : BitVec 4) : TxEntry :=
  ⟨0, 0x00100000, 0x00200000, [1, 2, 3, 4, 5, 6, 7, 8], rs, ifcs, staHi⟩

/-- Slot 0 in flight, TDH = TDT = 1. -/
def txFetched (rs ifcs : Bool) (staHi : BitVec 4) (psp : Bool) : State :=
  { txArmed 8 0x09 0x00 with
    regs := { (txArmed 8 0x09 0x00).regs with tx := ringAt 0x0010000 4 1 1, tctl := { tctlOn with psp := psp } }
    txInflight := [entry0 rs ifcs staHi] }

/-- RA[0] = 52:54:00:12:34:56 with AV = 1. -/
def raOwn : Vector RaEntry 16 := raReset.set 0 ⟨some 0x12005452, some 0x5634, some 0, some 1⟩

/-- The receiver on with RCTL `c`, RA[0] written, every MTA word `w`, an RX ring of 128 slots. -/
def rxOn (c : Rctl) (w : Word) (head tail : BitVec 16) : State :=
  { regState fun r => { r with
      rctl := c, ra := raOwn, mta := Vector.replicate 128 (some w), rx := ringAt 0x0011000 16 head tail } with
    mem := [(0x00110002, 0x30#8)] }

/-- A frame of `n` bytes to an address. -/
def frameTo (d : List Byte) (n : Nat) : Frame := d ++ List.replicate (n - d.length) 0x5A#8

/-- The station's address. -/
def own : List Byte := [0x52, 0x54, 0x00, 0x12, 0x34, 0x56]

/-- The broadcast address. -/
def bcast : List Byte := [0xFF, 0xFF, 0xFF, 0xFF, 0xFF, 0xFF]

/-- A state with one host task. -/
def hostState (s : State) (code : List Form) (temps : List (Nat × Int)) : State :=
  { s with tasks := [⟨code, 0, temps, [], .running⟩] }

/-! ## WellFormed smoke -/

theorem test_wf_accepts_aligned_word : Transaction.wellFormed ⟨true, 0x1FFFC, 4, 0⟩ = true := by decide
theorem test_wf_refuses_width : Transaction.wellFormed ⟨false, 0x03818, 2, 0⟩ = false := by decide
theorem test_wf_refuses_window : Transaction.wellFormed ⟨true, 0x20000, 4, 0⟩ = false := by decide
theorem test_wf_refuses_misaligned : Transaction.wellFormed ⟨false, 0x03802, 4, 0⟩ = false := by decide
theorem test_wf_form_refuses_csrr : Form.wellFormed (.csrr 0 0x03818 1) = false := by decide
theorem test_wf_form_refuses_csrw : Form.wellFormed (.csrw 0x03819 4 (.lit 0)) = false := by decide
theorem test_wf_refuses_undefined_label :
    labelsDefined [.label 1, .beq (.lit 0) (.lit 0) 2, .halt] = false := by decide
theorem test_wf_program_refuses_label : programWellFormed [.bne (.lit 0) (.lit 1) 7] = false := by decide
theorem test_wf_program_refuses_duplicate_label :
    programWellFormed [.label 1, .label 1, .halt] = false := by decide
theorem test_wf_program_refuses_form : programWellFormed [.csrr 0 0x20000 4, .halt] = false := by decide
theorem test_wf_program_accepts :
    programWellFormed [.label 0, .csrr 0 0x00008 4, .bne (.temp 0) (.lit 1) 0, .halt] = true := by decide
theorem test_wf_params_refuse_memory :
    Params.wellFormed { Params.example with memBytes := 2 ^ 32 + 1 } = false := by decide
theorem test_wf_params_refuse_inflight :
    Params.wellFormed { Params.example with txInflightMax := 0 } = false := by decide
theorem test_wf_params_refuse_fifo :
    Params.wellFormed { Params.example with rxFifoFrames := 0 } = false := by decide
theorem test_wf_params_accept_top : Params.wellFormed { Params.example with memBytes := 2 ^ 32 } = true := by
  decide

/-! ## Decoding: keys written out from R56 (bit 17 is the direction) and R58 -/

theorem test_decode_device_reads :
    decodeTableWord 24 0x00000 = some .csrrCtrl ∧ decodeTableWord 24 0x00008 = some .csrrStatus ∧
    decodeTableWord 24 0x00010 = some .csrrEecd ∧ decodeTableWord 24 0x00014 = some .csrrEerd ∧
    decodeTableWord 24 0x000C0 = some .csrrIcr ∧ decodeTableWord 24 0x000C8 = some .csrrIcs ∧
    decodeTableWord 24 0x000D0 = some .csrrIms ∧ decodeTableWord 24 0x000D8 = some .csrrImc := by decide
theorem test_decode_device_writes :
    decodeTableWord 64 0x0000004100020000 = some (.csrwCtrl 0x41) ∧
    decodeTableWord 64 0x8000000100020008 = some (.csrwStatus 0x80000001) ∧
    decodeTableWord 64 0x0000004000020010 = some (.csrwEecd 0x40) ∧
    decodeTableWord 64 0x0000020100020014 = some (.csrwEerd 0x201) ∧
    decodeTableWord 64 0x00000081000200C0 = some (.csrwIcr 0x81) ∧
    decodeTableWord 64 0x00000085000200C8 = some (.csrwIcs 0x85) ∧
    decodeTableWord 64 0x00000080000200D0 = some (.csrwIms 0x80) ∧
    decodeTableWord 64 0xFFFFFFFF000200D8 = some (.csrwImc 0xFFFFFFFF) := by decide
theorem test_decode_ring_reads :
    decodeTableWord 24 0x02800 = some .csrrRdbal ∧ decodeTableWord 24 0x02804 = some .csrrRdbah ∧
    decodeTableWord 24 0x02808 = some .csrrRdlen ∧ decodeTableWord 24 0x02810 = some .csrrRdh ∧
    decodeTableWord 24 0x02818 = some .csrrRdt ∧ decodeTableWord 24 0x03800 = some .csrrTdbal ∧
    decodeTableWord 24 0x03804 = some .csrrTdbah ∧ decodeTableWord 24 0x03808 = some .csrrTdlen ∧
    decodeTableWord 24 0x03810 = some .csrrTdh ∧ decodeTableWord 24 0x03818 = some .csrrTdt := by decide
theorem test_decode_ring_writes :
    decodeTableWord 64 0x0011000000022800 = some (.csrwRdbal 0x00110000) ∧
    decodeTableWord 64 0x0000000100022804 = some (.csrwRdbah 1) ∧
    decodeTableWord 64 0x0000080000022808 = some (.csrwRdlen 0x800) ∧
    decodeTableWord 64 0x0000000200022810 = some (.csrwRdh 2) ∧
    decodeTableWord 64 0x0000007F00022818 = some (.csrwRdt 127) ∧
    decodeTableWord 64 0x0010000000023800 = some (.csrwTdbal 0x00100000) ∧
    decodeTableWord 64 0x0000000300023804 = some (.csrwTdbah 3) ∧
    decodeTableWord 64 0x0000020000023808 = some (.csrwTdlen 0x200) ∧
    decodeTableWord 64 0x0000001F00023810 = some (.csrwTdh 31) ∧
    decodeTableWord 64 0x0000000500023818 = some (.csrwTdt 5) := by decide
theorem test_decode_controls :
    decodeTableWord 24 0x00100 = some .csrrRctl ∧ decodeTableWord 24 0x00400 = some .csrrTctl ∧
    decodeTableWord 24 0x00410 = some .csrrTipg ∧
    decodeTableWord 64 0x0400800200020100 = some (.csrwRctl 0x04008002) ∧
    decodeTableWord 64 0x0004010A00020400 = some (.csrwTctl 0x0004010A) ∧
    decodeTableWord 64 0x0060200A00020410 = some (.csrwTipg 0x0060200A) := by decide
theorem test_decode_arrays :
    decodeTableWord 24 0x05200 = some (.csrrMta 0) ∧ decodeTableWord 24 0x053FC = some (.csrrMta 127) ∧
    decodeTableWord 64 0x0001000000025204 = some (.csrwMta 1 0x00010000) ∧
    decodeTableWord 24 0x05400 = some (.csrrRal 0) ∧ decodeTableWord 24 0x05478 = some (.csrrRal 15) ∧
    decodeTableWord 64 0x1200545200025408 = some (.csrwRal 1 0x12005452) ∧
    decodeTableWord 24 0x0541C = some (.csrrRah 3) ∧
    decodeTableWord 64 0x800056340002547C = some (.csrwRah 15 0x80005634) := by decide
/-- One key of each family in binary, direction bit first, then the 17 offset bits of R56. -/
theorem test_decode_bit_by_bit :
    decodeTableWord 24 0b1_00000000000000000 = some (.csrwCtrl 0) ∧
    decodeTableWord 24 0b0_00000000000010100 = some .csrrEerd ∧
    decodeTableWord 24 0b1_00011100000011000 = some (.csrwTdt 0) ∧
    decodeTableWord 24 0b0_00010100000011000 = some .csrrRdt ∧
    decodeTableWord 24 0b0_00101001000000100 = some (.csrrMta 1) ∧
    decodeTableWord 24 0b1_00101010000001100 = some (.csrwRah 1 0) := by decide
/-- CA5, CA6, CA10 and keys with a bit above 17 or a low bit set: no instruction. -/
theorem test_decode_rejects :
    decodeTableWord 24 0x00004 = none ∧ decodeTableWord 24 0x24000 = none ∧
    decodeTableWord 24 0x05480 = none ∧ decodeTableWord 24 0x40000 = none ∧
    decodeTableWord 24 0x03819 = none ∧ decodeTableWord 24 0x05600 = none := by decide
theorem test_decode_truncated :
    (match decode [0x00, 0x00, 0x02, 0x00, 0x41, 0x00, 0x00] with
      | .error e => e == .truncated
      | .ok _ => false) = true := by decide

/-! ## The register window -/

/-- CS4: bits 0 and 6 of 0x41 are FD and SLU; the others are stored 0. -/
theorem test_ctrl_write :
    goesOn (exec (.csrwCtrl 0x00000041) State.reset) (fun s =>
      s.regs.ctrl.fd == some 1 && s.regs.ctrl.slu == some 1 && s.regs.ctrl.asde == some 0 &&
        s.regs.ctrl.speed == some 0 && !s.inReset) = true := by decide
/-- CS2, CS3: LRST and PHY_RST are refused. -/
theorem test_ctrl_refused :
    faultsWith (exec (.csrwCtrl 0x00000008) State.reset) (.csrValueUnsupported 0 0x00000008) = true ∧
    faultsWith (exec (.csrwCtrl 0x80000000) State.reset) (.csrValueUnsupported 0 0x80000000) = true := by decide
/-- A state after `csrw CTRL, 0x00000041`. -/
def ctrlWritten : State := regState fun r => { r with ctrl := Ctrl.ofWord 0x00000041 }
/-- CS4: the read gives bits 0 and 6 set, bit 26 = 0, and every other stored bit 0. -/
theorem test_ctrl_read : ∃ s, exec .csrrCtrl ctrlWritten = .next s ∧ s.busData &&& 0xDCFC1BE9#32 = 0x00000041#32 :=
  ⟨ctrlWritten.returnDrawn 0x00000041 ctrlX, rfl, (drawn_masked _ _ _ _ (by decide)).trans (by decide)⟩
/-- CS1: all ST fields are unwritten after reset. -/
theorem test_ctrl_read_undefined : faultsWith (exec .csrrCtrl State.reset) (.csrReadUndefined 0) = true := by decide
/-- CS6. -/
theorem test_status_read :
    goesOn (exec .csrrStatus State.reset) (fun s => s.busData == 0x80080783#32) = true := by decide
/-- CS7. -/
theorem test_status_write : exec (.csrwStatus 0) State.reset = .next State.reset := rfl
/-- IN3. -/
theorem test_icr_write :
    goesOn (exec (.csrwIcr 0x01) (regState fun r => { r with icr := 0x81 })) (fun s => s.regs.icr == 0x80#17) = true := by
  decide
/-- IN2: the read gives 0x85 and clears it. -/
theorem test_icr_read : ∃ s, exec .csrrIcr (regState fun r => { r with icr := 0x85 }) = .next s ∧
    s.busData &&& 0x0001FFFF#32 = 0x85#32 ∧ s.regs.icr = 0 :=
  ⟨{ (regState fun r => { r with icr := 0x85 }).returnDrawn 0x85 causeX with regs := State.reset.regs }, rfl,
    (drawn_masked (regState fun r => { r with icr := 0x85 }) 0x85 causeX _ (by decide)).trans (by decide), rfl⟩
/-- IN9: bits 31:17 of ICS are ignored; reserved bits 5, 8 and 11 are set if written (R80). -/
theorem test_ics_write :
    goesOn (exec (.csrwIcs 0xFFFE0000) State.reset) (fun s => s.regs.icr == 0#17) = true ∧
    goesOn (exec (.csrwIcs 0x00000920) State.reset) (fun s => s.regs.icr == 0x920#17) = true := by decide
/-- IN4, IN5. -/
theorem test_write_only_reads :
    faultsWith (exec .csrrIcs State.reset) (.csrReadWriteOnly 0x000C8) = true ∧
    faultsWith (exec .csrrImc State.reset) (.csrReadWriteOnly 0x000D8) = true := by decide
/-- IN6: mask and cause 0x80 raise the line. -/
theorem test_ims_write :
    goesOn (exec (.csrwIms 0x80) (regState fun r => { r with icr := 0x80 })) (fun s =>
      s.regs.imask == 0x80#17 && intr s) = true := by decide
/-- R84's example and IN7: the mask goes to 0, the cause stays, the line falls. -/
theorem test_imc_write :
    goesOn (exec (.csrwImc 0xFFFFFFFF) (regState fun r => { r with icr := 0x80, imask := 0x80 })) (fun s =>
      s.regs.imask == 0#17 && s.regs.icr == 0x80#17 && !intr s) = true := by decide
theorem test_ims_read : ∃ s, exec .csrrIms (regState fun r => { r with imask := 0x80 }) = .next s ∧
    s.busData &&& 0x0001FFFF#32 = 0x80#32 :=
  ⟨_, rfl, (drawn_masked (regState fun r => { r with imask := 0x80 }) 0x80 causeX _ (by decide)).trans (by decide)⟩

/-! ## EEPROM -/

/-- EE1. -/
theorem test_eecd_read : ∃ s, exec .csrrEecd State.reset = .next s ∧ s.busData &&& 0x000001C0#32 = 0x00000100#32 :=
  ⟨_, rfl, (drawn_masked State.reset 0x100 eecdX _ (by decide)).trans (by decide)⟩
/-- EE2, EE3. -/
theorem test_eecd_write :
    goesOn (exec (.csrwEecd 0x40) State.reset) (fun s => s.regs.eeReq) = true ∧
    goesOn (exec (.csrwEecd 0xFFFFFFBF) (regState fun r => { r with eeReq := true })) (fun s => !s.regs.eeReq) = true := by
  decide
/-- EE5: DONE, ADDR and DATA after the EEP step of word 1. -/
theorem test_eerd_read : ∃ s,
    exec .csrrEerd (regState fun r => { r with eerdDone := true, eerdAddr := 1, eerdData := 0x1200 }) = .next s ∧
    s.busData &&& 0xFFFFFF10#32 = 0x12000110#32 :=
  ⟨_, rfl, (drawn_masked (regState fun r => { r with eerdDone := true, eerdAddr := 1, eerdData := 0x1200 })
    0x12000110 (eerdX false) _ (by decide)).trans (by decide)⟩
/-- EE7, EE8: START = 0 only stores ADDR; START = 1 abandons a pending read. -/
theorem test_eerd_write :
    goesOn (exec (.csrwEerd 0x00000100) (regState fun r => { r with eerdDone := true })) (fun s =>
      s.regs.eerdAddr == 1#8 && s.regs.eerdDone && !s.eerdPending) = true ∧
    goesOn (exec (.csrwEerd 0x00000201) { State.reset with eerdPending := true, eerdReqAddr := 0 }) (fun s =>
      s.eerdReqAddr == 2#8 && s.eerdPending && !s.regs.eerdDone) = true := by decide
/-- EE5, EE8: the word that was asked for. -/
theorem test_eep_step :
    goesOn (turnStep { State.reset with eerdPending := true, eerdReqAddr := 1 } .eep) (fun s =>
      s.regs.eerdData == 0x1200#16 && s.regs.eerdDone && !s.eerdPending) = true ∧
    goesOn (turnStep { State.reset with eerdPending := true, eerdReqAddr := 2 } .eep) (fun s =>
      s.regs.eerdData == 0x5634#16) = true := by decide

/-! ## TX registers -/

/-- R93's example. -/
theorem test_tctl_write : goesOn (exec (.csrwTctl 0x0004010A) State.reset) (fun s => s.regs.tctl == tctlOn) = true := by
  decide
/-- TR1, TR2. -/
theorem test_tctl_faults :
    faultsWith (exec .csrrTctl State.reset) (.csrReadUndefined 0x00400) = true ∧
    faultsWith (exec (.csrwTctl 0x0044010A) State.reset) (.csrValueUnsupported 0x00400 0x0044010A) = true := by decide
/-- R92's example, over the bits that are not drawn. -/
theorem test_tctl_read : ∃ s, exec .csrrTctl (regState fun r => { r with tctl := tctlOn }) = .next s ∧
    s.busData &&& 0x017FFFFA#32 = 0x0004010A#32 :=
  ⟨_, rfl, (drawn_masked (regState fun r => { r with tctl := tctlOn }) 0x0004010A tctlX _ (by decide)).trans (by decide)⟩
/-- R95's example. -/
theorem test_tipg_write :
    goesOn (exec (.csrwTipg 0x0060200A) State.reset) (fun s => s.regs.tipg == ⟨some 10, some 8, some 6⟩) = true := by
  decide
/-- R94's example. -/
theorem test_tipg_read : ∃ s, exec .csrrTipg (regState fun r => { r with tipg := ⟨some 10, some 8, some 6⟩ }) = .next s ∧
    s.busData &&& 0x3FFFFFFF#32 = 0x0060200A#32 :=
  ⟨_, rfl, (drawn_masked (regState fun r => { r with tipg := ⟨some 10, some 8, some 6⟩ }) 0x0060200A tipgX _
    (by decide)).trans (by decide)⟩
/-- R96's example: bits 3:0 are dropped. TR3: not while enabled. -/
theorem test_tdbal_write :
    goesOn (exec (.csrwTdbal 0x0010000F) State.reset) (fun s => s.regs.tx.dbal == some 0x0010000#28) = true ∧
    faultsWith (exec (.csrwTdbal 0x00100000) (txArmed 8 0x09 0)) (.csrWriteWhileEnabled 0x03800) = true := by decide
theorem test_tdbal_read : ∃ s, exec .csrrTdbal (txRing 4 0 0) = .next s ∧ s.busData &&& 0xFFFFFFF0#32 = 0x00100000#32 :=
  ⟨_, rfl, (drawn_masked (txRing 4 0 0) 0x00100000 balX _ (by decide)).trans (by decide)⟩
theorem test_tdbah :
    goesOn (exec (.csrwTdbah 0xFFFFFFFF) State.reset) (fun s => s.regs.tx.dbah == some 0xFFFFFFFF#32) = true ∧
    goesOn (exec .csrrTdbah (txRing 4 0 0)) (fun s => s.busData == 0#32) = true ∧
    faultsWith (exec .csrrTdbah State.reset) (.csrReadUndefined 0x03804) = true := by decide
/-- TR5, TR7. -/
theorem test_tdlen_write :
    goesOn (exec (.csrwTdlen 0x27F) State.reset) (fun s => s.regs.tx.slots == 32) = true ∧
    goesOn (exec (.csrwTdlen 0x7F) State.reset) (fun s => s.regs.tx.slots == 0) = true := by decide
/-- TR4: EN = 0 but a descriptor in flight. -/
theorem test_tdlen_in_flight :
    faultsWith (exec (.csrwTdlen 0x200) { State.reset with txInflight := [entry0 true false 0] })
      (.csrWriteWhileEnabled 0x03808) = true := by decide
theorem test_tdlen_read : ∃ s, exec .csrrTdlen (txRing 4 0 0) = .next s ∧ s.busData &&& 0x000FFF80#32 = 0x200#32 :=
  ⟨_, rfl, (drawn_masked (txRing 4 0 0) 0x200 lenX _ (by decide)).trans (by decide)⟩
/-- TR8, TR9 and the last slot. -/
theorem test_tdh_write :
    faultsWith (exec (.csrwTdh 32) (txRing 4 0 0)) (.txHeadOutOfRange 32) = true ∧
    goesOn (exec (.csrwTdh 31) (txRing 4 0 0)) (fun s => s.regs.tx.head == 31#16) = true ∧
    goesOn (exec (.csrwTdh 0) State.reset) (fun s => s.regs.tx.head == 0#16) = true := by decide
theorem test_tdh_read : ∃ s, exec .csrrTdh (txRing 4 31 5) = .next s ∧ s.busData &&& 0x0000FFFF#32 = 31#32 :=
  ⟨_, rfl, (drawn_masked (txRing 4 31 5) 31 indexX _ (by decide)).trans (by decide)⟩
/-- TR10, TR12, TR16, TR18. -/
theorem test_tdt_write :
    goesOn (exec (.csrwTdt 31) (txRing 4 0 0)) (fun s => s.regs.tx.tail == 31#16) = true ∧
    goesOn (exec (.csrwTdt 4) (txRing 4 5 3)) (fun s => s.regs.tx.tail == 4#16) = true ∧
    goesOn (exec (.csrwTdt 3) (txRing 4 5 3)) (fun s => s.regs.tx.tail == 3#16) = true ∧
    goesOn (exec (.csrwTdt 0x00010005) (txRing 4 0 0)) (fun s => s.regs.tx.tail == 5#16) = true := by decide
/-- TR11, TR13, TR14, TR15, TR17. -/
theorem test_tdt_faults :
    faultsWith (exec (.csrwTdt 0) (txRing 4 0 31)) (.txTailRetract 31 0) = true ∧
    faultsWith (exec (.csrwTdt 5) (txRing 4 5 3)) (.txTailRetract 3 5) = true ∧
    faultsWith (exec (.csrwTdt 2) (txRing 4 5 3)) (.txTailRetract 3 2) = true ∧
    faultsWith (exec (.csrwTdt 32) (txRing 4 0 0)) (.txTailOutOfRange 32) = true ∧
    faultsWith (exec (.csrwTdt 1) State.reset) (.txTailOutOfRange 1) = true := by decide
theorem test_tdt_read : ∃ s, exec .csrrTdt (txRing 4 31 5) = .next s ∧ s.busData &&& 0x0000FFFF#32 = 5#32 :=
  ⟨_, rfl, (drawn_masked (txRing 4 31 5) 5 indexX _ (by decide)).trans (by decide)⟩

/-! ## TX engine -/

/-- TX1: the fetch, and that it writes no memory. -/
theorem test_txf_fetch :
    goesOn (turnStep (txArmed 8 0x09 0) .txf) (fun s =>
      s.regs.tx.head == 1#16 && s.txInflight == [entry0 true false 0] && s.mem == (txArmed 8 0x09 0).mem) = true := by
  decide
/-- TX3, TX6, TX11: IFCS, IDE and the upper nibble of the status byte. -/
theorem test_txf_fields :
    goesOn (turnStep (txArmed 8 0x0B 0) .txf) (fun s => s.txInflight == [entry0 true true 0]) = true ∧
    goesOn (turnStep (txArmed 8 0x89 0) .txf) (fun s => s.txInflight == [entry0 true false 0]) = true ∧
    goesOn (turnStep (txArmed 8 0x09 0xA0) .txf) (fun s => s.txInflight == [entry0 true false 0xA]) = true := by decide
/-- TX2, TX4, TX5: no EOP, DEXT, IC. -/
theorem test_txf_refused_commands :
    faultsWith (turnStep (txArmed 8 0x08 0) .txf) (.txDescUnsupported 0 0x08) = true ∧
    faultsWith (turnStep (txArmed 8 0x29 0) .txf) (.txDescUnsupported 0 0x29) = true ∧
    faultsWith (turnStep (txArmed 8 0x0D 0) .txf) (.txDescUnsupported 0 0x0D) = true := by decide
/-- TX7, TX9. -/
theorem test_txf_lengths :
    faultsWith (turnStep (txArmed 0 0x09 0) .txf) (.txLengthInvalid 0 0) = true ∧
    faultsWith (turnStep (txArmed 16289 0x09 0) .txf) (.txLengthInvalid 0 16289) = true := by decide
/-- TX13: a buffer that ends beyond MEM_BYTES. -/
def txBeyond : State :=
  { txArmed 8 0x09 0 with
    mem := [(0x00100000, 0xFC#8), (0x00100001, 0xFF#8), (0x00100002, 0xFF#8), (0x00100008, 8#8), (0x0010000B, 0x09#8)] }
theorem test_txf_buffer_range : faultsWith (turnStep txBeyond .txf) (.dmaOutOfRange .txf 0x00FFFFFC 8) = true := by decide
/-- TX15: the head wraps from 31 to 0. -/
def txWrap : State :=
  { regState fun r => { r with tctl := tctlOn, tx := ringAt 0x0010000 4 31 0 } with
    mem := [(0x001001F2, 0x20#8), (0x001001F8, 1#8), (0x001001FB, 0x09#8)] }
theorem test_txf_wraps : goesOn (turnStep txWrap .txf) (fun s => s.regs.tx.head == 0#16) = true := by decide
/-- TX16, and TX17 and TR19 for the enabling condition. -/
theorem test_txf_base_and_enable :
    faultsWith (turnStep (regState fun r => { r with tctl := tctlOn, tx := ⟨none, none, 4, 0, 1⟩ }) .txf)
      (.dmaRegUndefined .tx) = true ∧
    turnEnabled { txArmed 8 0x09 0 with
      params := { Params.example with txInflightMax := 1 }, txInflight := [entry0 true false 0] } .txf = false ∧
    turnEnabled (regState fun r => { r with tctl := tctlOn, tx := ringAt 0x0010000 1 20 21 }) .txf = false ∧
    turnEnabled (txArmed 8 0x09 0) .txf = true := by decide
/-- TX14: no padding with PSP = 0; TX11: the upper nibble as fetched; TXDW and TXQE. -/
theorem test_txc_completes :
    goesOn (turnStep (txFetched true false 0xA false) .txc) (fun s =>
      s.wireOut == [⟨[1, 2, 3, 4, 5, 6, 7, 8], false⟩] && Memory.read s.mem 0x0010000C == 0xA1#8 &&
        s.regs.icr == 3#17 && s.txInflight == []) = true := by decide
/-- TX1: padded to 60 bytes with PSP = 1; TX10: RS = 0 writes nothing back and sets TXQE only. -/
theorem test_txc_pads :
    goesOn (turnStep (txFetched false true 0 true) .txc) (fun s =>
      s.wireOut.map (fun w => (w.bytes.length, w.bytes.take 8, w.fcsInserted)) == [(60, [1, 2, 3, 4, 5, 6, 7, 8], true)] &&
        Memory.read s.mem 0x0010000C == 0#8 && s.regs.icr == 2#17) = true := by decide

/-! ## RX registers -/

/-- Section 2.7, first line, and R129: EN, BAM, SECRC, BSIZE 2048. -/
theorem test_rctl_write :
    goesOn (exec (.csrwRctl 0x04008002) State.reset) (fun s => s.regs.rctl == rctlOn) = true ∧
    goesOn (exec (.csrwRctl 0x02010002) State.reset) (fun s => s.regs.rctl.bufSize == some 16384) = true ∧
    goesOn (exec (.csrwRctl 0x04010000) (rxOn rctlOn 0 0 127)) (fun s =>
      !s.regs.rctl.en && s.regs.rctl.bufSize == some 1024) = true := by decide
/-- Loopback, RDMTS = 11b, BSEX with BSIZE 00b; a size change while EN stays 1. -/
theorem test_rctl_faults :
    faultsWith (exec (.csrwRctl 0x04008042) State.reset) (.csrValueUnsupported 0x00100 0x04008042) = true ∧
    faultsWith (exec (.csrwRctl 0x04008302) State.reset) (.csrValueUnsupported 0x00100 0x04008302) = true ∧
    faultsWith (exec (.csrwRctl 0x02000002) State.reset) (.csrValueUnsupported 0x00100 0x02000002) = true ∧
    faultsWith (exec (.csrwRctl 0x04018002) (rxOn rctlOn 0 0 127)) (.csrWriteWhileEnabled 0x00100) = true := by decide
/-- R111's example, over the stored bits. -/
theorem test_rctl_read : ∃ s, exec .csrrRctl (rxOn rctlOn 0 0 127) = .next s ∧
    s.busData &&& 0x06DFB3FE#32 = 0x04008002#32 :=
  ⟨_, rfl, (drawn_masked (rxOn rctlOn 0 0 127) 0x04008002 rctlX _ (by decide)).trans (by decide)⟩
theorem test_rdbal_write :
    goesOn (exec (.csrwRdbal 0x0011000F) State.reset) (fun s => s.regs.rx.dbal == some 0x0011000#28) = true ∧
    faultsWith (exec (.csrwRdbal 0) (rxOn rctlOn 0 0 127)) (.csrWriteWhileEnabled 0x02800) = true := by decide
theorem test_rdbal_read : ∃ s, exec .csrrRdbal (rxRing 16 0 0) = .next s ∧ s.busData &&& 0xFFFFFFF0#32 = 0x00110000#32 :=
  ⟨_, rfl, (drawn_masked (rxRing 16 0 0) 0x00110000 balX _ (by decide)).trans (by decide)⟩
theorem test_rdbah :
    goesOn (exec (.csrwRdbah 7) State.reset) (fun s => s.regs.rx.dbah == some 7#32) = true ∧
    goesOn (exec .csrrRdbah (rxRing 16 0 0)) (fun s => s.busData == 0#32) = true := by decide
/-- R118's example; section 2.7: not while enabled. -/
theorem test_rdlen_write :
    goesOn (exec (.csrwRdlen 0x800) State.reset) (fun s => s.regs.rx.slots == 128) = true ∧
    faultsWith (exec (.csrwRdlen 0x800) (rxOn rctlOn 0 0 127)) (.csrWriteWhileEnabled 0x02808) = true := by decide
theorem test_rdlen_read : ∃ s, exec .csrrRdlen (rxRing 16 0 0) = .next s ∧ s.busData &&& 0x000FFF80#32 = 0x800#32 :=
  ⟨_, rfl, (drawn_masked (rxRing 16 0 0) 0x800 lenX _ (by decide)).trans (by decide)⟩
theorem test_rdh_write :
    faultsWith (exec (.csrwRdh 128) (rxRing 16 0 0)) (.rxHeadOutOfRange 128) = true ∧
    goesOn (exec (.csrwRdh 127) (rxRing 16 0 0)) (fun s => s.regs.rx.head == 127#16) = true := by decide
theorem test_rdh_read : ∃ s, exec .csrrRdh (rxRing 16 9 127) = .next s ∧ s.busData &&& 0x0000FFFF#32 = 9#32 :=
  ⟨_, rfl, (drawn_masked (rxRing 16 9 127) 9 indexX _ (by decide)).trans (by decide)⟩
/-- Section 2.7: RDT 0 admitted and 1 refused with RDH = 1, RDT = 127; 128 out of range. -/
theorem test_rdt_write :
    goesOn (exec (.csrwRdt 0) (rxRing 16 1 127)) (fun s => s.regs.rx.tail == 0#16) = true ∧
    faultsWith (exec (.csrwRdt 1) (rxRing 16 1 127)) (.rxTailRetract 127 1) = true ∧
    faultsWith (exec (.csrwRdt 128) (rxRing 16 1 127)) (.rxTailOutOfRange 128) = true := by decide
theorem test_rdt_read : ∃ s, exec .csrrRdt (rxRing 16 9 127) = .next s ∧ s.busData &&& 0x0000FFFF#32 = 127#32 :=
  ⟨_, rfl, (drawn_masked (rxRing 16 9 127) 127 indexX _ (by decide)).trans (by decide)⟩
/-- R124's example, at the last entry. -/
theorem test_ral :
    goesOn (exec (.csrwRal 15 0x12005452) State.reset) (fun s =>
      (s.regs.raAt 15).ral == some 0x12005452#32 && (s.regs.raAt 14).ral == none) = true ∧
    goesOn (exec (.csrrRal 0) (rxOn rctlOn 0 0 127)) (fun s => s.busData == 0x12005452#32) = true := by decide
/-- R126's example, and section 2.7: ASEL = 01b is refused. -/
theorem test_rah_write :
    goesOn (exec (.csrwRah 0 0x80005634) State.reset) (fun s =>
      s.regs.raAt 0 == ⟨none, some 0x5634, some 0, some 1⟩) = true ∧
    faultsWith (exec (.csrwRah 0 0x80015634) State.reset) (.csrValueUnsupported 0x05404 0x80015634) = true := by decide
/-- R125's example; section 2.7: RAH[3] is unwritten after reset. -/
theorem test_rah_read : (∃ s, exec (.csrrRah 0) (rxOn rctlOn 0 0 127) = .next s ∧
    s.busData &&& 0x8003FFFF#32 = 0x80005634#32) ∧
    faultsWith (exec (.csrrRah 3) State.reset) (.csrReadUndefined 0x0541C) = true :=
  ⟨⟨_, rfl, (drawn_masked (rxOn rctlOn 0 0 127) 0x80005634 rahX _ (by decide)).trans (by decide)⟩, by decide⟩
/-- CA9 and a write of MTA[0]. -/
theorem test_mta :
    faultsWith (exec (.csrrMta 127) State.reset) (.csrReadUndefined 0x053FC) = true ∧
    goesOn (exec (.csrwMta 0 0x00010000) State.reset) (fun s =>
      s.regs.mtaAt 0 == some 0x00010000#32 && s.regs.mtaAt 1 == none) = true ∧
    goesOn (exec (.csrrMta 127) (rxOn rctlOn 5 0 127)) (fun s => s.busData == 5#32) = true := by decide

/-! ## The filter and the RX engine -/

/-- The filter's answer. -/
def accepts (r : Csrs) (p : Frame) (b : Bool) : Bool :=
  match rxFilter r p with
  | .ok x => x == b
  | .error _ => false

/-- The filter's fault. -/
def filterFaults (r : Csrs) (p : Frame) (g : FilterReg) : Bool :=
  match rxFilter r p with
  | .ok _ => false
  | .error f => f == .filterUndefined g

/-- FI1, FI2, FI3, FI4, FI5. -/
theorem test_filter_unicast_broadcast :
    accepts (rxOn rctlOn 0 0 127).regs (frameTo own 60) true = true ∧
    accepts (rxOn rctlOn 0 0 127).regs (frameTo bcast 60) true = true ∧
    accepts (rxOn { rctlOn with bam := false } 0 0 127).regs (frameTo bcast 60) false = true ∧
    accepts (rxOn rctlOn 0 0 127).regs (frameTo [0x52, 0x54, 0, 0x12, 0x34, 0x57] 60) false = true ∧
    accepts (rxOn { rctlOn with upe := true } 0 0 127).regs (frameTo [0x52, 0x54, 0, 0x12, 0x34, 0x57] 60) true = true := by
  decide
/-- FI6, FI7, FI8: bit 16 of MTA[0]. -/
theorem test_filter_multicast :
    accepts (rxOn rctlOn 0 0 127).regs (frameTo [1, 0, 0x5E, 0, 0, 1] 60) false = true ∧
    accepts ((rxOn rctlOn 0 0 127).regs.setMta 0 0x00010000) (frameTo [1, 0, 0x5E, 0, 0, 1] 60) true = true ∧
    accepts (rxOn { rctlOn with mpe := true } 0 0 127).regs (frameTo [1, 0, 0x5E, 0, 0, 1] 60) true = true := by decide
/-- FI9: the hash of AB:CD under the four values of MO. -/
theorem test_filter_hash :
    mtaHash 0 0xAB 0xCD = 0xCDA ∧ mtaHash 1 0xAB 0xCD = 0x9B5 ∧ mtaHash 2 0xAB 0xCD = 0x36A ∧
    mtaHash 3 0xAB 0xCD = 0xDAB := by decide
/-- FI10, FI11, FI12. -/
theorem test_filter_undefined :
    filterFaults { Csrs.reset with rctl := { Rctl.reset with en := true } } (frameTo own 60) (.rah 0) = true ∧
    accepts { Csrs.reset with rctl := rctlOn } (frameTo bcast 60) true = true ∧
    filterFaults { Csrs.reset with rctl := rctlOn, ra := raOwn } (frameTo [1, 0, 0x5E, 0, 0, 1] 60) (.mta 0) = true := by
  decide
/-- RD1 accepted; RD6 dropped. -/
theorem test_wireRx :
    goesOn (turnStep (rxOn rctlOn 0 0 127) (.wireRx (frameTo own 60))) (fun s => s.rxFifo == [frameTo own 60]) = true ∧
    goesOn (turnStep (rxOn { rctlOn with en := false } 0 0 127) (.wireRx (frameTo own 60))) (fun s =>
      s.rxFifo == [] && s.regs.icr == 0#17) = true := by decide
/-- RD3, RD4: 1519 bytes without and with LPE. -/
theorem test_wireRx_length :
    goesOn (turnStep (rxOn rctlOn 0 0 127) (.wireRx (frameTo own 1519))) (fun s => s.rxFifo.isEmpty) = true ∧
    goesOn (turnStep (rxOn { rctlOn with lpe := true } 0 0 127) (.wireRx (frameTo own 1519))) (fun s =>
      s.rxFifo.length == 1) = true := by decide +kernel
/-- RD5: four more bytes with SECRC = 0. RD7: RXO with a full FIFO. -/
theorem test_wireRx_fcs_and_overrun :
    goesOn (turnStep (rxOn { rctlOn with secrc := false } 0 0 127) (.wireRx (frameTo own 60))) (fun s =>
      s.rxFifo.map List.length == [64]) = true ∧
    goesOn (turnStep { rxOn rctlOn 0 0 127 with rxFifo := List.replicate 4 (frameTo own 60) }
      (.wireRx (frameTo own 60))) (fun s => s.rxFifo.length == 4 && s.regs.icr == 0x40#17) = true := by decide
/-- A frame of `n` bytes waiting for the receiver. -/
def rxWaiting (c : Rctl) (n : Nat) (head tail : BitVec 16) : State :=
  { rxOn c 0 head tail with rxFifo := [frameTo own n] }
/-- RD1: RDH, RXT0 without RXDMT0, and where the frame and the write-back go. -/
theorem test_rxd_deposit :
    goesOn (turnStep (rxWaiting rctlOn 60 0 127) .rxd) (fun s =>
      s.regs.rx.head == 1#16 && s.regs.icr == 0x80#17 && s.rxFifo == []) = true ∧
    (match planDeposits (rxWaiting rctlOn 60 0 127) 0x00110000 0 (chunks 2048 1 (frameTo own 60)) with
      | .ok ds => ds == [⟨0x00110000, 0x00300000, frameTo own 60⟩]
      | .error _ => false) = true := by decide +kernel
/-- RD2: the length of 1518 bytes, 0x05EE, and ERRORS. -/
theorem test_rxd_write_back (k : Nat) :
    (writeBackBytes 1518 true k).take 2 = [0xEE, 0x05] ∧ (writeBackBytes 1518 true k)[5]? = some 0x00#8 :=
  ⟨rfl, rfl⟩
/-- RD10 (not enabled with 2 free of 3), RD15 (the head wraps), RD12 (RXDMT0 at 64 free, not at 65). -/
theorem test_rxd_enable_and_wrap :
    turnEnabled (rxWaiting { rctlOn with bsize := 3 } 600 0 2) .rxd = false ∧
    turnEnabled (rxWaiting { rctlOn with bsize := 3 } 600 0 3) .rxd = true ∧
    goesOn (turnStep (rxWaiting rctlOn 60 127 126) .rxd) (fun s => s.regs.rx.head == 0#16) = true ∧
    goesOn (turnStep (rxWaiting rctlOn 60 62 127) .rxd) (fun s => s.regs.icr == 0x90#17) = true ∧
    goesOn (turnStep (rxWaiting rctlOn 60 61 127) .rxd) (fun s => s.regs.icr == 0x80#17) = true := by decide +kernel
/-- RD11: a frame no ring of 8 slots holds. -/
def rxTooBig : State :=
  { rxWaiting { rctlOn with bsize := 3, lpe := true } 2000 0 7 with
    regs := { (rxWaiting { rctlOn with bsize := 3, lpe := true } 2000 0 7).regs with rx := ringAt 0x0011000 1 0 7 } }
theorem test_rxd_drops :
    goesOn (turnStep rxTooBig .rxd) (fun s => s.rxFifo == [] && s.regs.icr == 0x40#17 && s.mem == rxTooBig.mem) = true := by
  decide +kernel
/-- RD14: a buffer that ends beyond MEM_BYTES. -/
def rxBeyond : State :=
  { rxWaiting rctlOn 600 0 127 with mem := [(0x00110001, 0xFF#8), (0x00110002, 0xFF#8)] }
theorem test_rxd_buffer_range : faultsWith (turnStep rxBeyond .rxd) (.dmaOutOfRange .rxd 0x00FFFF00 600) = true := by decide +kernel
/-- RD8: 256, 256 and 88 bytes. -/
theorem test_rxd_chunks : (chunks 256 (chunkCount 600 256) (List.replicate 600 7#8)).map List.length = [256, 256, 88] := by
  decide +kernel

/-! ## Host accesses and ownership -/

/-- OW1, OW2, OW4: a published descriptor, one in flight, a buffer byte in flight. -/
theorem test_ownership_faults :
    faultsWith (hostStep 0 (hostState (txArmed 8 0x09 0) [.store .byte (.lit 0x0010000C) (.lit 0)] []))
      (.ownershipViolation 0x0010000C 0) = true ∧
    faultsWith (hostStep 0 (hostState (txFetched true false 0 true) [.store .byte (.lit 0x0010000C) (.lit 0)] []))
      (.ownershipViolation 0x0010000C 0) = true ∧
    faultsWith (hostStep 0 (hostState (txFetched true false 0 true) [.store .byte (.lit 0x00200003) (.lit 0x55)] []))
      (.ownershipViolation 0x00200003 0) = true := by decide
/-- OW5: the byte after the buffer. OW10: the tail slot is software's. -/
theorem test_ownership_admits :
    goesOn (hostStep 0 (hostState (txFetched true false 0 true) [.store .byte (.lit 0x00200008) (.lit 0x55)] []))
      (fun s => Memory.read s.mem 0x00200008 == 0x55#8) = true ∧
    goesOn (hostStep 0 (hostState (rxOn rctlOn 0 0 127) [.store .word (.lit 0x001107F0) (.lit 0x01020304)] []))
      (fun s => Memory.readBytes s.mem 0x001107F0 4 == [4, 3, 2, 1]) = true := by decide
/-- OW7: a hardware-owned descriptor reads as memory. OW11: a misaligned store moves one byte a step. -/
theorem test_host_load_and_split_store :
    goesOn (hostStep 0 (hostState (rxOn rctlOn 0 0 127) [.load .byte 3 (.lit 0x00110002)] []))
      (fun s => s.tasks.map (fun t => tempValue t.temps 3) == [0x30]) = true ∧
    goesOn (hostStep 0 (hostState State.reset [.store .half (.lit 0x00110009) (.lit 0x1234)] []))
      (fun s => s.mem == [(0x00110009, 0x34#8)] && s.tasks.map (fun t => (t.pos, t.moved)) == [(0, [0x34#8])]) = true := by
  decide
/-- CA1, CA2, CA3, CA4, CA5: the order of the checks. -/
theorem test_transaction_faults :
    faultsWith (hostStep 0 (hostState State.reset [.csrr 0 0x3818 2] [])) (.csrBadWidth 0x3818 2) = true ∧
    faultsWith (hostStep 0 (hostState State.reset [.csrw 0x20000 4 (.lit 0)] [])) (.csrOutOfWindow 0x20000) = true ∧
    faultsWith (hostStep 0 (hostState State.reset [.csrr 0 0x3802 4] [])) (.csrMisaligned 0x3802) = true ∧
    faultsWith (hostStep 0 (hostState State.reset [.csrr 0 0x20001 2] [])) (.csrBadWidth 0x20001 2) = true ∧
    faultsWith (hostStep 0 (hostState State.reset [.csrr 0 0x00004 4] [])) (.csrUndocumented 0x00004) = true := by decide
/-- CA7: held while in reset; CA8: a bad access is not. -/
theorem test_transaction_held :
    turnEnabled (hostState { State.reset with inReset := true } [.csrw 0x3818 4 (.lit 0)] []) (.host 0) = false ∧
    turnEnabled (hostState { State.reset with inReset := true } [.csrr 0 0x3819 4] []) (.host 0) = true := by decide
/-- CS5: the RST step. -/
theorem test_rst_step :
    goesOn (turnStep { rxOn rctlOn 0 0 127 with inReset := true } .rst) (fun s =>
      s.regs == Csrs.reset && !s.inReset && s.mem == (rxOn rctlOn 0 0 127).mem) = true := by decide +kernel
/-- 44_host_protocol.md: the TX buffer of slot 5 is at 0x00202800; with every address translated 0x1000 up, the
RX buffer of slot 127 is at 0x00340800 instead of 0x0033F800. -/
theorem test_slot_buffers :
    evalExpr [(1, 5)] (refTxBufOf (fun a => a) 1) = 0x00202800 ∧
    evalExpr [(1, 127)] (refRxBufOf (fun a => a + 0x1000) 1) = 0x00340800 :=
  ⟨evalExpr_slotTable (s := 5) rfl (by decide), evalExpr_slotTable (s := 127) rfl (by decide)⟩
/-- R140: `get_mac` in the fallback mode stores byte 0 of the constant first, and the other way loads it first. -/
theorem test_get_mac :
    goesOn (hostStep 0 (hostState State.reset (getMacProgram (.fixed #v[0x52, 0x54, 0x00, 0x12, 0x34, 0x56]) 0x1000) []))
      (fun s => Memory.read s.mem 0x1000 == 0x52#8) = true ∧
    (getMacProgram .eeprom 0x1000)[0]? = some (.load .byte 100 (.add (.lit 0x00090000) (.lit 0))) := by decide
/-- W7: a STATUS of 0x80080781 (link down) takes bring-up to its `fatal`; the default goes on. -/
theorem test_status_check :
    goesOn (andThen (hostStep 0 (hostState { State.reset with params := { Params.example with linkStatus := 0x80080781 } }
      (statusCheck 0 ++ [.halt, .label 0, .fatal]) [])) (hostStep 0)) (fun s => s.tasks.map Task.pos == [3]) = true ∧
    goesOn (andThen (hostStep 0 (hostState State.reset (statusCheck 0 ++ [.halt, .label 0, .fatal]) [])) (hostStep 0))
      (fun s => s.tasks.map Task.pos == [2]) = true := by decide
/-- R33: a published slot is ARMED while the ring base is unwritten; one outside the window then has no state. -/
theorem test_slot_state_without_base :
    txSlotState (regState fun r => { r with tx := { r.tx with len := 4, tail := 1 } }) 0 = some .armed ∧
    txSlotState (regState fun r => { r with tx := { r.tx with len := 4, tail := 1 } }) 1 = none := by decide
/-- R145: one `transmit` and one `receive` call, each repeated. -/
def oneCallEach : RefHost := ⟨.eeprom, 22, [(0x00400000, 60)], [(0x00500000, 2048)]⟩
theorem test_reference_loops_are_programs :
    programWellFormed (oneCallEach.transmitLoop fun a => a) = true ∧
    programWellFormed (oneCallEach.receiveLoop fun a => a) = true := by decide +kernel
/-- R145: bring-up, then the two tasks, and not before it returned 0. -/
theorem test_reference_tasks :
    (({ State.reset with tasks := [⟨[], 0, [], [], .returned 0⟩] } : State).startSteady oneCallEach (fun a => a) 0).tasks.length = 3 ∧
    (({ State.reset with tasks := [⟨[], 0, [], [], .fatal⟩] } : State).startSteady oneCallEach (fun a => a) 0).tasks.length = 1 := by
  decide
/-- The decoder and the step meet: the table word of `csrw TDLEN, 0x200` from reset. -/
theorem test_fetch_word :
    goesOn (step (State.reset.withFetchWord 64 0x0000020000023808)) (fun s => s.regs.tx.slots == 32) = true := by decide
/-- W7's observation: RDBAL is unwritten after reset. -/
theorem test_fetch_read_faults :
    faultsWith (step (State.reset.withFetchWord 24 0x02800)) (.csrReadUndefined 0x02800) = true := by decide

/-! ## Witnesses: concrete states and operands that meet the hypotheses of each statement -/

theorem next_of_goesOn {r : Result} (h : goesOn r (fun _ => true) = true) : ∃ t, r = .next t := by
  cases r with
  | next s => exact ⟨s, rfl⟩
  | fault f => cases h
  | refused f => cases h

theorem fault_of_faultsWith {r : Result} {f : Fault} (h : faultsWith r f = true) : r = .fault f := by
  cases r with
  | next s => cases h
  | fault g => exact congrArg _ (by simpa [faultsWith] using h)
  | refused g => cases h

/-- Task `k` of `s` is about to issue the transaction `x`. -/
def issues (s : State) (k : Nat) (x : Transaction) : Prop :=
  ∃ t f, s.tasks[k]? = some t ∧ t.nextForm = some f ∧ formTransaction t.temps f = some x

/-- Task `k` of `s` is about to perform the form `f`. -/
def performs (s : State) (k : Nat) (f : Form) : Prop := ∃ t, s.tasks[k]? = some t ∧ t.nextForm = some f

theorem witness_DecodedBytesAreTheEncoding :
    decode [0x18, 0x38, 0x02, 0x00, 0x01, 0x00, 0x00, 0x00, 0xAA] = .ok (.csrwTdt 1, [0xAA]) := rfl

/-- A read with offset and width, next of task 0; `b`: while a reset is in progress. -/
def reading (b : Bool) (offset width : Nat) : State :=
  hostState { State.reset with inReset := b } [.csrr 0 offset width] []

theorem witness_TransactionChecks_width :
    issues (reading false 0x20001 2) 0 ⟨false, 0x20001, 2, 0⟩ ∧ issues (reading true 0x20001 5) 0 ⟨false, 0x20001, 5, 0⟩ :=
  ⟨⟨_, _, rfl, rfl, rfl⟩, ⟨_, _, rfl, rfl, rfl⟩⟩
theorem witness_TransactionChecks_window : issues (reading true 0x20000 4) 0 ⟨false, 0x20000, 4, 0⟩ := ⟨_, _, rfl, rfl, rfl⟩
theorem witness_TransactionChecks_misaligned : issues (reading true 0x1FFFF 4) 0 ⟨false, 0x1FFFF, 4, 0⟩ ∧ 0x1FFFF % 4 ≠ 0 :=
  ⟨⟨_, _, rfl, rfl, rfl⟩, by decide⟩
theorem witness_TransactionChecks_undocumented :
    issues (reading true 0x1FFFC 4) 0 ⟨false, 0x1FFFC, 4, 0⟩ ∧ (∀ r : Reg, r.offset ≠ 0x1FFFC) ∧
    issues (reading false 0x05480 4) 0 ⟨false, 0x05480, 4, 0⟩ ∧ (∀ r : Reg, r.offset ≠ 0x05480) := by
  refine ⟨⟨_, _, rfl, rfl, rfl⟩, ?_, ⟨_, _, rfl, rfl, rfl⟩, ?_⟩ <;> intro r <;> cases r <;> simp only [Reg.offset] <;> omega
theorem witness_TransactionChecks_register :
    issues (reading true 0x0547C 4) 0 ⟨false, 0x0547C, 4, 0⟩ ∧ (Instr.csrrRah 15).reg.offset = 0x0547C ∧
    issues (reading false 0x00000 4) 0 ⟨false, 0x00000, 4, 0⟩ ∧ Instr.csrrCtrl.reg.offset = 0x00000 ∧
    (reading true 0x0547C 4).inReset = true ∧ (reading false 0 4).inReset = false :=
  ⟨⟨_, _, rfl, rfl, rfl⟩, rfl, ⟨_, _, rfl, rfl, rfl⟩, rfl, rfl, rfl⟩

/-- A write of TDLEN, next of task 0, whose turn it is. -/
def writingTdlen : State := { hostState State.reset [.csrw 0x03808 4 (.lit 0x200)] [] with agenda := [.host 0, .rst] }

theorem witness_StepRuns_write :
    writingTdlen.faults = [] ∧ writingTdlen.inReset = false ∧ writingTdlen.agenda = .host 0 :: [.rst] ∧
    issues writingTdlen 0 ⟨true, 0x03808, 4, 0x200⟩ ∧
    decode (bytesOfWord (BitVec.ofNat 32 (0x03808 + 0x20000)) ++ bytesOfWord 0x200) = .ok (.csrwTdlen 0x200, []) :=
  ⟨rfl, rfl, rfl, ⟨_, _, rfl, rfl, rfl⟩, rfl⟩
theorem witness_StepRuns_read :
    issues (reading false 0x053FC 4) 0 ⟨false, 0x053FC, 4, 0⟩ ∧
    decode (bytesOfWord (BitVec.ofNat 32 0x053FC)) = .ok (.csrrMta 127, []) := ⟨⟨_, _, rfl, rfl, rfl⟩, rfl⟩
theorem witness_FetchedTableWordRuns :
    State.reset.faults = [] ∧ State.reset.inReset = false ∧
    decodeTableWord 64 0x0000020000023808 = some (.csrwTdlen 0x200) ∧ decodeTableWord 24 0x05478 = some (.csrrRal 15) := by
  decide
theorem witness_TransactionsTouchOnlyRegisters :
    (∃ t, exec .csrrIcr State.reset = .next t) ∧ Instr.csrrIcr.data = none ∧
    (∃ t, exec (.csrwEerd 1) State.reset = .next t) ∧ (Instr.csrwEerd 1).data ≠ none ∧ (Instr.csrwEerd 1).reg ≠ .ctrl ∧
    Instr.csrrIcr.reg ≠ .eerd :=
  ⟨⟨_, rfl⟩, rfl, ⟨_, rfl⟩, by decide, by decide, by decide⟩

theorem witness_CtrlRead_written :
    ctrlWritten.regs.ctrl = ⟨some 1, some 0, some 0, some 1, some 0, some 0, some 0, some 0, some 0, some 0, some 0,
      some 0, some 0, some 0, some 0, some 0, some 0, some 0⟩ := by decide
/-- One unwritten field is enough. -/
theorem witness_CtrlRead_undefined :
    ({ ctrlWritten.regs.ctrl with phyRst := none } : Ctrl).phyRst = none ∧ State.reset.regs.ctrl.fd = none := by decide
theorem witness_CtrlWrite :
    (0x00000008#32).getLsbD 3 = true ∧ (0x08000000#32).getLsbD 27 = true ∧ (0x10000000#32).getLsbD 28 = true ∧
    (0x40000000#32).getLsbD 30 = true ∧ (0x80000000#32).getLsbD 31 = true ∧
    (∀ b ∈ [3, 27, 28, 30, 31], (0x27FFFFF7#32).getLsbD b = false) ∧ (0x27FFFFF7#32).getLsbD 26 = true := by decide
theorem witness_EerdReadAndWrite :
    State.reset.eerdPending = false ∧ (0x00003F01#32).getLsbD 0 = true ∧ (0xFFFFFFFE#32).getLsbD 0 = false := by decide

/-- A pending read of word `a`. -/
def eepPending (a : BitVec 8) : State := { State.reset with eerdPending := true, eerdReqAddr := a }

theorem witness_EepStep_boundary :
    (eepPending 63).eerdReqAddr.toNat < 64 ∧ 64 ≤ (eepPending 64).eerdReqAddr.toNat ∧
    turnEnabled (eepPending 63) .eep = true ∧ turnEnabled (eepPending 64) .eep = true := by decide

/-- The read of word 0 completes in the first step; after it nothing is enabled. -/
def eepRun : Nat → State
  | 0 => eepPending 0
  | _ + 1 => { eepPending 0 with
      regs := { State.reset.regs with eerdData := 0x5452, eerdDone := true }, eerdPending := false }

theorem eepRun_disabled (m : Nat) (u : Turn) (hu : ∀ p, u ≠ .wireRx p) (he : u ≠ .eep) :
    turnEnabled (eepRun m) u = false := by
  cases m <;> cases u <;> first | rfl | exact absurd rfl (hu _) | exact absurd rfl he

theorem eepRun_fair : fairRun (fun _ => .eep) eepRun := by
  refine ⟨?_, ?_, ?_, ?_, ?_, ?_, fun n _ => ⟨n, Nat.le_refl n, rfl⟩⟩
  · intro n; cases n <;> rfl
  all_goals try intro k
  all_goals
    first
    | intro h
      exact absurd (h _ (Nat.le_refl _)) (by rw [eepRun_disabled _ _ (by simp) (by simp)]; simp)
    | intro n h
      exact absurd (h _ (Nat.le_refl _)) (by rw [eepRun_disabled _ _ (by simp) (by simp)]; simp)

theorem witness_PendingEepromReadCompletesInFairRun :
    fairRun (fun _ => .eep) eepRun ∧
    (∀ m, 0 ≤ m → (eepRun m).faults = [] ∧ (eepRun m).inReset = false ∧ (eepRun m).regs.eeReq = false) ∧
    (eepRun 0).eerdPending = true :=
  ⟨eepRun_fair, fun m _ => by cases m <;> exact ⟨rfl, rfl, rfl⟩, rfl⟩

theorem witness_TctlReadAndWrite :
    tctlOn.ct = some 0x10 ∧ tctlOn.cold = some 0x40 ∧ tctlOn.rtlc = some 0 ∧
    Tctl.reset.ct = none ∧ ({ tctlOn with cold := none } : Tctl).cold = none ∧
    ({ tctlOn with rtlc := none } : Tctl).rtlc = none ∧
    (0x00400000#32).getLsbD 22 = true ∧ (0xFFBFFFFF#32).getLsbD 22 = false := by decide
theorem witness_TipgReadAndWrite :
    Tipg.ofWord 0x0060200A = ⟨some 10, some 8, some 6⟩ ∧ Tipg.reset.ipgt = none ∧
    ({ Tipg.ofWord 0 with ipgr2 := none } : Tipg).ipgr2 = none := by decide
theorem witness_RingBaseReads :
    (txRing 4 0 0).regs.tx.dbal = some 0x0010000 ∧ (txRing 4 0 0).regs.tx.dbah = some 0 ∧
    (rxRing 16 0 0).regs.rx.dbal = some 0x0011000 ∧ (rxRing 16 0 0).regs.rx.dbah = some 0 ∧
    State.reset.regs.tx.dbal = none ∧ State.reset.regs.tx.dbah = none ∧ State.reset.regs.rx.dbal = none ∧
    State.reset.regs.rx.dbah = none := by decide
/-- Quiet; enabled; disabled with an entry in flight. -/
theorem witness_RingBaseAndLengthWrites :
    ((txRing 4 0 0).regs.tctl.en = false ∧ (txRing 4 0 0).txInflight = []) ∧
    (txArmed 8 0x09 0).regs.tctl.en = true ∧
    (({ State.reset with txInflight := [entry0 true false 0] } : State).txInflight ≠ [] ∧
      ({ State.reset with txInflight := [entry0 true false 0] } : State).regs.tctl.en = false) ∧
    (rxRing 16 0 0).regs.rctl.en = false ∧ (rxOn rctlOn 0 0 127).regs.rctl.en = true := by decide
/-- Heads 7 and 8 of a ring of 8; head 0 of a ring of none; bits 31:16 do not count. -/
theorem witness_RingHeadWrites :
    (txRing 1 0 0).regs.tx.len.toNat * 8 = 8 ∧ (txRing 1 0 0).regs.tctl.en = false ∧ (txRing 1 0 0).txInflight = [] ∧
    (0x00000008#32).extractLsb' 0 16 ≠ 0#16 ∧ 8 ≤ ((0x00000008#32).extractLsb' 0 16).toNat ∧
    ((0xFFFF0007#32).extractLsb' 0 16).toNat < 8 ∧ (0xFFFF0000#32).extractLsb' 0 16 = 0#16 ∧
    (rxRing 1 0 0).regs.rx.len.toNat * 8 = 8 ∧ (rxRing 1 0 0).regs.rctl.en = false ∧
    State.reset.regs.tx.len.toNat * 8 = 0 := by decide

/-- The hypotheses of a tail write's statement. -/
def tailHyps (r : RingRegs) (v : Word) (n t h old : Nat) : Prop :=
  n = r.len.toNat * 8 ∧ t = (v.extractLsb' 0 16).toNat ∧ h = r.head.toNat ∧ old = r.tail.toNat
/-- No slots with a zero and a nonzero tail; tails 8 and 7 of a ring of 8. -/
theorem witness_tail_range :
    tailHyps RingRegs.reset 1 0 1 0 0 ∧ tailHyps RingRegs.reset 0xFFFF0000 0 0 0 0 ∧
    tailHyps (ringAt 0 1 0 0) 8 8 8 0 0 ∧ (8 : Nat) ≤ 8 ∧ tailHyps (ringAt 0 1 0 0) 7 8 7 0 0 ∧ (7 : Nat) < 8 ∧
    ((0 : Int) - 0) % 8 ≤ ((7 : Int) - 0) % 8 := by unfold tailHyps; decide
/-- One slot less, the same window, one slot more, in a window that wraps (head 5, tail 3). -/
theorem witness_tail_retract :
    tailHyps (ringAt 0 1 5 3) 2 8 2 5 3 ∧ ((2 : Int) - 5) % 8 < ((3 : Int) - 5) % 8 ∧
    tailHyps (ringAt 0 1 5 3) 3 8 3 5 3 ∧ ((3 : Int) - 5) % 8 ≤ ((3 : Int) - 5) % 8 ∧
    tailHyps (ringAt 0 1 5 3) 4 8 4 5 3 ∧ ((3 : Int) - 5) % 8 ≤ ((4 : Int) - 5) % 8 ∧
    tailHyps (ringAt 0 1 5 3) 5 8 5 5 3 ∧ ((5 : Int) - 5) % 8 < ((3 : Int) - 5) % 8 := by unfold tailHyps; decide

/-- A written RCTL value that holds no refused field. -/
def rctlFine (v : Word) : Prop :=
  v.extractLsb' 6 2 = 0#2 ∧ v.extractLsb' 8 2 ≠ 3#2 ∧ v.getLsbD 18 = false ∧ v.getLsbD 19 = false ∧
    ¬(v.getLsbD 25 = true ∧ v.extractLsb' 16 2 = 0#2)
theorem witness_RctlWrite_refused :
    (0x00000040#32).extractLsb' 6 2 ≠ 0#2 ∧ (0x00000300#32).extractLsb' 8 2 = 3#2 ∧
    (0x00040000#32).getLsbD 18 = true ∧ (0x00080000#32).getLsbD 19 = true ∧
    ((0x02000000#32).getLsbD 25 = true ∧ (0x02000000#32).extractLsb' 16 2 = 0#2) := by decide
/-- Against BSIZE 2048 with EN = 1: a new size with EN = 1, a new size with EN = 0, the same size. -/
theorem witness_RctlWrite_fine :
    (rctlFine 0x04018002 ∧ rctlOn.en = true ∧ (0x04018002#32).getLsbD 1 = true ∧
      (0x04018002#32).extractLsb' 16 2 ≠ rctlOn.bsize) ∧
    (rctlFine 0x04018000 ∧ ¬((0x04018000#32).getLsbD 1 = true)) ∧
    (rctlFine 0x04008202 ∧ ¬((0x04008202#32).extractLsb' 16 2 ≠ rctlOn.bsize ∨ (0x04008202#32).getLsbD 25 ≠ rctlOn.bsex)) := by
  unfold rctlFine; decide
theorem witness_RalMtaRah :
    ((rxOn rctlOn 0 0 127).regs.ra.get (0#4).toFin).ral = some 0x12005452 ∧
    (State.reset.regs.ra.get (15#4).toFin).ral = none ∧
    (rxOn rctlOn 0 0 127).regs.mta.get (127#7).toFin = some 0 ∧ State.reset.regs.mta.get (127#7).toFin = none ∧
    (rxOn rctlOn 0 0 127).regs.ra.get (0#4).toFin = ⟨some 0x12005452, some 0x5634, some 0, some 1⟩ ∧
    State.reset.regs.ra.get (1#4).toFin = ⟨none, none, none, some 0⟩ ∧
    (0x80010000#32).extractLsb' 16 2 ≠ 0#2 ∧ (0x80005634#32).extractLsb' 16 2 = 0#2 := by decide
theorem witness_RxBufferSizeTable :
    (0x02000000#32).getLsbD 25 = true ∧ (0x02000000#32).extractLsb' 16 2 = 0#2 ∧
    (∀ b ∈ [false, true], ∀ z ∈ [0#2, 1#2, 2#2, 3#2],
      ({ Rctl.reset with bsex := b, bsize := z } : Rctl).bsex = b ∧
        ({ Rctl.reset with bsex := b, bsize := z } : Rctl).bsize = z) := by decide

/-- A descriptor at 0x00100000 of `len` bytes at 0x00200000 with `m` bytes of memory. -/
def txSized (m len : Nat) (cmd : Byte) : State :=
  { txArmed len cmd 0 with params := { Params.example with memBytes := m } }

/-- The hypotheses that name the descriptor's fields, for slot 0 at 0x00100000. -/
def txHyps (s : State) (addr len : Nat) (cmd sta : Byte) : Prop :=
  s.regs.tx.dbal = some 0x0010000 ∧ s.regs.tx.dbah = some 0 ∧ 0 = s.regs.tx.head.toNat ∧
  0x00100000 = (0#32).toNat * 2 ^ 32 + (0x0010000#28).toNat * 16 + 16 * 0 ∧
  addr = Memory.readLE s.mem 0x00100000 8 ∧ len = Memory.readLE s.mem (0x00100000 + 8) 2 ∧
  cmd = Memory.read s.mem (0x00100000 + 11) ∧ sta = Memory.read s.mem (0x00100000 + 12)
theorem witness_Txf_base :
    State.reset.regs.tx.dbal = none ∧ (regState fun r => { r with tx := { r.tx with dbal := some 1 } }).regs.tx.dbah = none := by
  decide
/-- One byte of memory too few for the descriptor, and just enough. -/
theorem witness_Txf_descriptor_range :
    txHyps (txSized 0x0010000F 8 0x09) 0x00200000 8 0x09 0 ∧ 0x0010000F < 0x00100000 + 16 ∧
    txHyps (txSized 0x00100010 8 0x08) 0x00200000 8 0x08 0 ∧ 0x00100000 + 16 ≤ 0x00100010 := by
  unfold txHyps; decide
theorem witness_Txf_commands :
    (∀ c ∈ [0x08#8, 0x0D#8, 0x19#8, 0x29#8, 0x49#8], c.getLsbD 0 = false ∨ c.getLsbD 2 = true ∨ c.getLsbD 4 = true ∨
      c.getLsbD 5 = true ∨ c.getLsbD 6 = true) ∧
    txHyps (txSized 0x00100010 8 0x49) 0x00200000 8 0x49 0 ∧
    ((0x8B#8).getLsbD 0 = true ∧ (0x8B#8).getLsbD 2 = false ∧ (0x8B#8).getLsbD 4 = false ∧ (0x8B#8).getLsbD 5 = false ∧
      (0x8B#8).getLsbD 6 = false) := by
  unfold txHyps; decide
theorem witness_Txf_lengths :
    txHyps (txSized 0x01000000 0 0x8B) 0x00200000 0 0x8B 0 ∧ txHyps (txSized 0x01000000 16289 0x8B) 0x00200000 16289 0x8B 0 ∧
    txHyps (txSized 0x01000000 1 0x8B) 0x00200000 1 0x8B 0 ∧ txHyps (txSized 0x01000000 16288 0x8B) 0x00200000 16288 0x8B 0 := by
  unfold txHyps; decide
theorem witness_Txf_buffer_range :
    txHyps (txSized 0x00200007 8 0x8B) 0x00200000 8 0x8B 0 ∧ 0x00200007 < 0x00200000 + 8 ∧
    txHyps (txSized 0x00200008 8 0x8B) 0x00200000 8 0x8B 0 ∧ 0x00200000 + 8 ≤ 0x00200008 := by
  unfold txHyps; decide

/-- With RS = 1 and one byte of memory too few, and just enough; with RS = 0. -/
theorem witness_TxcCompletesOldestDescriptor :
    (txFetched true false 0 true).txInflight = entry0 true false 0 :: [] ∧ (entry0 true false 0).rs = true ∧
    0x0010000C < (entry0 true false 0).daddr.toNat + 13 ∧ (entry0 true false 0).daddr.toNat + 13 ≤ 0x0010000D ∧
    Memory.wf (txFetched true false 0 true).mem = true ∧
    (txFetched false false 0 true).txInflight = entry0 false false 0 :: [] ∧ ¬(entry0 false false 0).rs = true := by decide
theorem witness_TxcNeverFaultsInLegalStates :
    (txFetched true false 0 true).Legal ∧ turnEnabled (txFetched true false 0 true) .txc = true := by decide +kernel
/-- Seven of eight slots published from slot 5; the new tail is the head. -/
theorem witness_TxRingHoldsAllButOneSlot :
    (8 : Nat) = (txRing 1 5 4).regs.tx.len.toNat * 8 ∧ 0 < 8 ∧ ((4 : Int) - 5) % 8 = 8 - 1 ∧
    (txRing 1 5 4).regs.tx.head.toNat < 8 ∧ (5#32).extractLsb' 0 16 = (txRing 1 5 4).regs.tx.head := by decide
theorem witness_FetchMovesHeadSlotIntoFlight :
    turnEnabled txWrap .txf = true ∧ ∃ t, turnStep txWrap .txf = .next t := ⟨by decide, next_of_goesOn (by decide)⟩
theorem witness_HeadReturnsAfterFullRound : (ringAt 0 1 7 0).head.toNat < (ringAt 0 1 7 0).len.toNat * 8 := by decide

/-- The conditions under which FilterChecksInOrder speaks of a frame. -/
def filterHyps (r : Csrs) (p : Frame) (d : List Byte) (early : Bool) (skips : Nat → Prop) (h : Nat) : Prop :=
  14 ≤ p.length ∧ d = p.take 6 ∧
  early =
    ((d == List.replicate 6 0xFF#8 && r.rctl.bam) || (!(d.getD 0 0#8).getLsbD 0 && r.rctl.upe) ||
      ((d.getD 0 0#8).getLsbD 0 && r.rctl.mpe)) ∧
  (∀ n, skips n ↔ ∃ hn : n < 16, r.ra[n].av = some 0#1 ∨
    ∃ lo hi, r.ra[n].av = some 1#1 ∧ r.ra[n].ral = some lo ∧ r.ra[n].addrHi = some hi ∧
      d ≠ [lo.extractLsb' 0 8, lo.extractLsb' 8 8, lo.extractLsb' 16 8, lo.extractLsb' 24 8,
        hi.extractLsb' 0 8, hi.extractLsb' 8 8]) ∧
  h = (match r.rctl.mo.toNat with
    | 0 => ((d.getD 4 0#8).toNat >>> 4) ||| ((d.getD 5 0#8).toNat <<< 4)
    | 1 => ((d.getD 4 0#8).toNat >>> 3) ||| ((d.getD 5 0#8).toNat <<< 5)
    | 2 => ((d.getD 4 0#8).toNat >>> 2) ||| ((d.getD 5 0#8).toNat <<< 6)
    | _ => (d.getD 4 0#8).toNat ||| ((d.getD 5 0#8).toNat <<< 8)) % 4096

/-- Registers whose entry 15 is `e` and whose other entries have AV = 0. -/
def lastEntry (e : RaEntry) (mta : Vector (RegCell 32) 128) : Csrs :=
  { Csrs.reset with rctl := rctlOn, ra := (Vector.replicate 16 ⟨none, none, none, some 0#1⟩).set 15 e, mta := mta }

theorem lastEntry_ra (e : RaEntry) (mta : Vector (RegCell 32) 128) (m : Nat) (hm : m < 15) :
    (lastEntry e mta).ra[m].av = some 0#1 := by
  have h : 15 ≠ m := by omega
  simp [lastEntry, h]

theorem witness_Filter_early : ∃ skips h,
    filterHyps (lastEntry ⟨none, none, none, none⟩ (Vector.replicate 128 none)) (bcast ++ List.replicate 8 0) bcast true skips h :=
  ⟨_, _, by decide, by decide, by decide, fun _ => Iff.rfl, rfl⟩
/-- Entry 15 decides: AV unwritten, the address unwritten, the address equal. -/
theorem witness_Filter_entry (e : RaEntry) (_he : e = ⟨none, none, none, none⟩ ∨ e = ⟨none, some 0x5634, some 0, some 1⟩ ∨
      e = ⟨some 0x12005452, some 0x5634, some 0, some 1⟩) : ∃ skips : Nat → Prop, ∃ h,
    filterHyps (lastEntry e (Vector.replicate 128 none)) (own ++ List.replicate 8 0) own false skips h ∧
    (∀ m, m < 15 → skips m) ∧ (lastEntry e (Vector.replicate 128 none)).ra[15] = e :=
  ⟨_, _, ⟨by decide, by decide, rfl, fun _ => Iff.rfl, rfl⟩,
    fun m hm => ⟨by omega, Or.inl (lastEntry_ra e _ m hm)⟩, by simp [lastEntry]⟩
/-- No entry decides: a unicast and a multicast frame, the table's word 127 unwritten and written. -/
theorem witness_Filter_table (mta : Vector (RegCell 32) 128) (p : Frame) (d : List Byte)
    (hp : p = [0x52, 0x54, 0, 0x12, 0xFF, 0xFF] ++ List.replicate 8 0 ∧ d = [0x52, 0x54, 0, 0x12, 0xFF, 0xFF] ∨
      p = [0x01, 0, 0, 0, 0xFF, 0xFF] ++ List.replicate 8 0 ∧ d = [0x01, 0, 0, 0, 0xFF, 0xFF]) :
    ∃ skips : Nat → Prop, filterHyps (lastEntry ⟨none, none, none, some 0⟩ mta) p d false skips 0xFFF ∧
      (∀ m, m < 16 → skips m) ∧ 0xFFF / 32 < 128 := by
  refine ⟨_, ⟨?_, ?_, ?_, fun _ => Iff.rfl, ?_⟩, fun m hm => ⟨hm, Or.inl ?_⟩, by decide⟩
  · rcases hp with ⟨rfl, rfl⟩ | ⟨rfl, rfl⟩ <;> decide
  · rcases hp with ⟨rfl, rfl⟩ | ⟨rfl, rfl⟩ <;> decide
  · rcases hp with ⟨rfl, rfl⟩ | ⟨rfl, rfl⟩ <;> rfl
  · rcases hp with ⟨rfl, rfl⟩ | ⟨rfl, rfl⟩ <;> rfl
  · rcases Nat.lt_or_ge m 15 with h | h
    · exact lastEntry_ra _ _ m h
    · obtain rfl : m = 15 := by omega
      simp [lastEntry]
theorem witness_Filter_table_words :
    (lastEntry ⟨none, none, none, some 0⟩ (Vector.replicate 128 none)).mta[0xFFF / 32] = none ∧
    (lastEntry ⟨none, none, none, some 0⟩ (Vector.replicate 128 (some 0x80000000#32))).mta[0xFFF / 32] =
      some 0x80000000#32 := by decide

theorem witness_WireRx_off :
    (rxOn { rctlOn with en := false } 0 0 127).regs.rctl.en = false ∧
    ({ rxOn rctlOn 0 0 127 with inReset := true } : State).inReset = true := by decide
/-- Frames of 1518 and 1519 bytes, and 16380 and 16381 with LPE = 1. -/
theorem witness_WireRx_length :
    (rxOn rctlOn 0 0 127).inReset = false ∧ (rxOn rctlOn 0 0 127).regs.rctl.en = true ∧
    (if rctlOn.lpe then 16380 else 1518) < (List.replicate 1519 0#8).length ∧
    (List.replicate 1518 0#8).length ≤ (if rctlOn.lpe then 16380 else 1518) ∧
    (if ({ rctlOn with lpe := true } : Rctl).lpe then 16380 else 1518) < (List.replicate 16381 0#8).length ∧
    (List.replicate 16380 0#8).length ≤ (if ({ rctlOn with lpe := true } : Rctl).lpe then 16380 else 1518) := by
  simp only [List.length_replicate]; decide
/-- The filter faults, rejects, accepts with four frames waiting and with three. -/
theorem witness_WireRx_filter :
    (∃ f, rxFilter { Csrs.reset with rctl := rctlOn } (frameTo own 60) = .error f) ∧
    rxFilter (rxOn rctlOn 0 0 127).regs (frameTo [0, 0, 0, 0, 0, 0] 60) = .ok false ∧
    rxFilter (rxOn rctlOn 0 0 127).regs (frameTo own 60) = .ok true ∧
    Params.example.rxFifoFrames ≤ (List.replicate 4 (frameTo own 60)).length ∧
    (List.replicate 3 (frameTo own 60)).length < Params.example.rxFifoFrames :=
  ⟨⟨_, rfl⟩, rfl, rfl, by decide, by decide⟩

/-- One frame of `n` bytes, buffers of 256 bytes, a ring of 8 slots all but one granted, `m` bytes of memory. -/
def rxSmall (m n : Nat) (r : RingRegs) : State :=
  { rxWaiting { rctlOn with bsize := 3, lpe := true } n 0 7 with
    params := { Params.example with memBytes := m }
    regs := { (rxWaiting { rctlOn with bsize := 3, lpe := true } n 0 7).regs with rx := r } }

/-- The hypotheses of RxdDepositsOldestFrame, for a ring of 8 slots. -/
def rxHyps (s : State) (k : Nat) : Prop :=
  ∃ q rest, 8 = s.regs.rx.len.toNat * 8 ∧ s.rxFifo = q :: rest ∧ s.regs.rctl.bufSize = some 256 ∧
    k = (q.length + 256 - 1) / 256
/-- Frames of 1793 (8 descriptors of at most 7) and 1792 bytes (exactly 7). -/
theorem witness_Rxd_size :
    (rxHyps (rxSmall 0x01000000 1793 (ringAt 0x0011000 1 0 7)) 8 ∧ 8 - 1 < 8) ∧
    (rxHyps (rxSmall 0x01000000 1792 (ringAt 0x0011000 1 0 7)) 7 ∧ 7 ≤ 8 - 1) :=
  ⟨⟨⟨_, _, rfl, rfl, rfl, by decide +kernel⟩, by decide⟩, ⟨⟨_, _, rfl, rfl, rfl, by decide +kernel⟩, by decide⟩⟩
theorem witness_Rxd_base :
    rxHyps (rxSmall 0x01000000 60 ⟨none, some 0, 1, 0, 7⟩) 1 ∧
    (rxSmall 0x01000000 60 ⟨none, some 0, 1, 0, 7⟩).regs.rx.dbal = none ∧
    (rxSmall 0x01000000 60 ⟨some 0, none, 1, 0, 7⟩).regs.rx.dbah = none :=
  ⟨⟨_, _, rfl, rfl, rfl, by decide⟩, rfl, rfl⟩
/-- The slot functions of the statement, for a ring at 0x00110000 with its head at slot 0. -/
def rxDa (j : Nat) : Nat := (0#32).toNat * 2 ^ 32 + (0x0011000#28).toNat * 16 + 16 * ((0 + j) % 8)
theorem witness_Rxd_slots (m n : Nat) :
    (rxSmall m n (ringAt 0x0011000 1 0 7)).regs.rx.dbal = some 0x0011000 ∧
    (rxSmall m n (ringAt 0x0011000 1 0 7)).regs.rx.dbah = some 0 ∧
    (rxSmall m n (ringAt 0x0011000 1 0 7)).regs.rx.head.toNat < 8 ∧
    ∃ (a : Nat → Nat) (c : Nat → Frame), (∀ j, rxDa j =
        (0#32).toNat * 2 ^ 32 + (0x0011000#28).toNat * 16 +
          16 * (((rxSmall m n (ringAt 0x0011000 1 0 7)).regs.rx.head.toNat + j) % 8)) ∧
      (∀ j, a j = Memory.readLE (rxSmall m n (ringAt 0x0011000 1 0 7)).mem (rxDa j) 8) ∧
      (∀ j, c j = ((frameTo own n).drop (j * 256)).take 256) :=
  ⟨rfl, rfl, (by decide : (0#16).toNat < 8), _, _, fun _ => rfl, fun _ => rfl, fun _ => rfl⟩
/-- Slot 0 whose descriptor ends one byte early (bytes 0 to 7, bytes 8 to 15), whose buffer ends one byte early,
and that fits exactly; slot 1, whose buffer is at 0, decides alone once slot 0 passed. -/
theorem witness_Rxd_ranges :
    (0x00110007 < rxDa 0 + 8) ∧ (rxDa 0 + 8 ≤ 0x0011000F ∧ 0x0011000F < rxDa 0 + 16) ∧
    Memory.readLE (rxSmall 0 60 (ringAt 0x0011000 1 0 7)).mem (rxDa 0) 8 = 0x00300000 ∧
    (rxDa 0 + 16 ≤ 0x0030003B ∧ 0x0030003B < 0x00300000 + 60) ∧ 0x00300000 + 60 ≤ 0x0030003C ∧
    Memory.readLE (rxSmall 0 60 (ringAt 0x0011000 1 0 7)).mem (rxDa 1) 8 = 0 := by decide
theorem witness_RxdWritesBufferAndWriteBackOnly :
    Memory.wf (rxSmall 0x01000000 60 (ringAt 0x0011000 1 0 7)).mem = true ∧
    turnEnabled (rxSmall 0x01000000 60 (ringAt 0x0011000 1 0 7)) .rxd = true ∧
    (rxSmall 0x01000000 60 (ringAt 0x0011000 1 0 7)).rxFifo = frameTo own 60 :: [] ∧
    1 ≤ (frameTo own 60).length ∧ (frameTo own 60).length ≤ 256 ∧
    (rxSmall 0x01000000 60 (ringAt 0x0011000 1 0 7)).regs.rx.base = some 0x00110000 ∧
    ∃ t, turnStep (rxSmall 0x01000000 60 (ringAt 0x0011000 1 0 7)) .rxd = .next t :=
  ⟨by decide, by decide +kernel, rfl, by decide, by decide, by decide, next_of_goesOn (by decide +kernel)⟩
/-- A frame of 600 bytes takes the slots 0, 1 and 2 of a window of 7. -/
theorem witness_DepositTakesSlotsOutOfWindow :
    8 = (rxSmall 0x01000000 600 (ringAt 0x0011000 1 0 7)).regs.rx.len.toNat * 8 ∧
    turnEnabled (rxSmall 0x01000000 600 (ringAt 0x0011000 1 0 7)) .rxd = true ∧
    rxHyps (rxSmall 0x01000000 600 (ringAt 0x0011000 1 0 7)) 3 ∧ 3 ≤ 8 - 1 ∧
    ∃ t, turnStep (rxSmall 0x01000000 600 (ringAt 0x0011000 1 0 7)) .rxd = .next t :=
  ⟨by decide, by decide +kernel, ⟨_, _, rfl, rfl, rfl, by decide +kernel⟩, by decide, next_of_goesOn (by decide +kernel)⟩
/-- 512 bytes fill two buffers of 256; 513 take a third. -/
theorem witness_ChunksPartitionTheFrame :
    0 < 256 ∧ 1 ≤ (List.replicate 512 7#8).length ∧ 2 = chunkCount (List.replicate 512 7#8).length 256 ∧
    3 = chunkCount (List.replicate 513 7#8).length 256 ∧ 0 + 1 < 2 := by
  simp only [List.length_replicate]; decide
theorem witness_EnginesLeaveTheOtherRingAlone :
    (∃ t, turnStep (txArmed 8 0x09 0) .txf = .next t) ∧ (∃ t, turnStep (txFetched true false 0 true) .txc = .next t) ∧
    (∃ t, turnStep (rxOn rctlOn 0 0 127) (.wireRx (frameTo own 60)) = .next t) ∧
    (∃ t, turnStep (rxWaiting rctlOn 60 0 127) .rxd = .next t) :=
  ⟨next_of_goesOn (by decide), next_of_goesOn (by decide +kernel), next_of_goesOn (by decide),
    next_of_goesOn (by decide +kernel)⟩

/-- Both rings, the RX window wrapping. -/
def bothRings : State :=
  { txArmed 8 0x09 0 with
    regs := { (txArmed 8 0x09 0).regs with rx := ringAt 0x0011000 1 7 6, rctl := rctlOn }
    txInflight := [⟨3, 0x00100030, 0x00200000, [1], true, false, 0⟩] }
/-- The windows are any predicates that say what `tw` and `rw` must; the TX base alone, the RX base alone, and
both. -/
theorem witness_HardwareOwnedBytes (s : State) : (∃ tw rw : Nat → Prop,
    (∀ u, tw u ↔ s.regs.tx.len.toNat * 8 ≠ 0 ∧ ∃ j : Nat,
      (j : Int) < ((s.regs.tx.tail.toNat : Int) - s.regs.tx.head.toNat) % (s.regs.tx.len.toNat * 8 : Nat) ∧
      u = (s.regs.tx.head.toNat + j) % (s.regs.tx.len.toNat * 8)) ∧
    (∀ u, rw u ↔ s.regs.rx.len.toNat * 8 ≠ 0 ∧ ∃ j : Nat,
      (j : Int) < ((s.regs.rx.tail.toNat : Int) - s.regs.rx.head.toNat) % (s.regs.rx.len.toNat * 8 : Nat) ∧
      u = (s.regs.rx.head.toNat + j) % (s.regs.rx.len.toNat * 8))) ∧
    (txArmed 8 0x09 0).regs.tx.base = some 0x00100000 ∧ (txArmed 8 0x09 0).regs.rx.base = none ∧
    (rxOn rctlOn 0 0 127).regs.rx.base = some 0x00110000 ∧ (rxOn rctlOn 0 0 127).regs.rctl.bufSize = some 2048 ∧
    (rxOn rctlOn 0 0 127).regs.tx.base = none ∧
    bothRings.regs.tx.base = some 0x00100000 ∧ bothRings.regs.rx.base = some 0x00110000 ∧
    bothRings.regs.rctl.bufSize = some 2048 :=
  ⟨⟨_, _, fun _ => Iff.rfl, fun _ => Iff.rfl⟩, by decide, by decide, by decide, by decide, by decide, by decide,
    by decide, by decide⟩
/-- The first and the last byte of a published descriptor, and the byte after it; the same of a granted buffer. -/
theorem witness_HardwareOwnedBytes_edges :
    hwOwner (txArmed 8 0x09 0) 0x00100000 ≠ none ∧ hwOwner (txArmed 8 0x09 0) 0x0010000F ≠ none ∧
    hwOwner (txArmed 8 0x09 0) 0x00100010 = none ∧
    rxBufferOwner (rxOn rctlOn 0 0 127) 0x003007FF ≠ none := by decide +kernel

theorem witness_SlotStatesFollowOwnershipAndDone :
    bothRings.regs.tx.base = some 0x00100000 ∧ bothRings.regs.rx.base = some 0x00110000 ∧
    0 ∈ txOwnedSlots bothRings ∧ 3 ∈ txOwnedSlots bothRings ∧ 1 ∉ txOwnedSlots bothRings ∧
    7 ∈ bothRings.regs.rx.window ∧ 6 ∉ bothRings.regs.rx.window := by decide
/-- After reset, TDLEN = 0x200 and TDT = 1: slot 0 is published while the base is unwritten. -/
theorem witness_SlotStates_without_base :
    0 ∈ txOwnedSlots (regState fun r => { r with tx := { r.tx with len := 4, tail := 1 } }) ∧
    (regState fun r => { r with tx := { r.tx with len := 4, tail := 1 } }).regs.tx.base = none := by decide

/-- The last word of memory, no byte of it owned; and the last byte of a published descriptor. -/
theorem witness_AlignedStoreWritesOrFaults :
    performs (hostState State.reset [.store .word (.lit 0x00FFFFFC) (.lit (-1))] []) 0
      (.store .word (.lit 0x00FFFFFC) (.lit (-1))) ∧
    evalExpr [] (.lit 0x00FFFFFC) = ((0x00FFFFFC : Nat) : Int) ∧ 0x00FFFFFC % 4 = 0 ∧
    0x00FFFFFC + 4 ≤ State.reset.params.memBytes ∧ Memory.wf State.reset.mem = true ∧
    (∀ y, 0x00FFFFFC ≤ y → y < 0x00FFFFFC + 4 → hwOwner (hostState State.reset [] []) y = none) ∧
    performs (hostState (txArmed 8 0x09 0) [.store .byte (.lit 0x0010000F) (.lit 0)] []) 0
      (.store .byte (.lit 0x0010000F) (.lit 0)) ∧
    hwOwner (hostState (txArmed 8 0x09 0) [] []) 0x0010000F ≠ none :=
  ⟨⟨_, rfl, rfl⟩, rfl, by decide, by decide, rfl, fun _ _ _ => rfl, ⟨_, rfl, rfl⟩, by decide⟩
/-- The last half-word of memory, and a word of which a hardware-owned RX buffer is part. -/
theorem witness_AlignedLoadReadsMemoryOrDraws :
    performs (hostState State.reset [.load .half 0 (.lit 0x00FFFFFE)] []) 0 (.load .half 0 (.lit 0x00FFFFFE)) ∧
    0x00FFFFFE % 2 = 0 ∧ 0x00FFFFFE + 2 ≤ State.reset.params.memBytes ∧ rxBufferOwner State.reset 0x00FFFFFE = none ∧
    rxBufferOwner (rxOn rctlOn 0 0 127) 0x00300000 ≠ none := by
  refine ⟨⟨_, rfl, rfl⟩, by decide, by decide, by decide, by decide +kernel⟩
/-- A misaligned word at its first and at its last byte, unowned and owned; a misaligned half-word load. -/
theorem witness_MisalignedAccessMovesOneByte :
    0x00110009 % 4 ≠ 0 ∧ ([] : List Byte).length = 0 ∧ [1#8, 2#8, 3#8].length = 3 ∧ 3 + 1 = 4 ∧
    0x00110009 + 3 < State.reset.params.memBytes ∧ Memory.wf State.reset.mem = true ∧
    performs (hostState State.reset [.store .word (.lit 0x00110009) (.lit 7)] []) 0 (.store .word (.lit 0x00110009) (.lit 7)) ∧
    hwOwner State.reset 0x0011000C = none ∧ hwOwner (txArmed 8 0x09 0) 0x0010000C ≠ none ∧
    performs (hostState State.reset [.load .half 1 (.lit 0x00110009)] []) 0 (.load .half 1 (.lit 0x00110009)) ∧
    rxBufferOwner State.reset 0x00110009 = none :=
  ⟨by decide, rfl, rfl, rfl, by decide, rfl, ⟨_, rfl, rfl⟩, by decide, by decide, ⟨_, rfl, rfl⟩, by decide⟩
theorem witness_ReadAfterWriteSeesTheBytes :
    Memory.wf (txArmed 8 0x09 0).mem = true ∧ 0x0010000B ≤ 0x0010000C ∧ 0x0010000C + 2 ≤ 0x0010000B + [9#8, 0#8, 5#8].length ∧
    0x0010000B + [9#8, 0#8, 5#8].length ≤ 0x0010000E := by decide
theorem witness_HostNeverWritesOwnedBytes :
    (∃ t, hostStep 0 (hostState (txArmed 8 0x09 0) [.store .byte (.lit 0x00100010) (.lit 1)] []) = .next t) ∧
    hwOwner (hostState (txArmed 8 0x09 0) [.store .byte (.lit 0x00100010) (.lit 1)] []) 0x0010000F ≠ none :=
  ⟨next_of_goesOn (by decide), by decide⟩
theorem witness_ControlForms_branches :
    performs (hostState State.reset [.beq (.lit 1) (.lit 1) 7, .halt, .label 7] []) 0 (.beq (.lit 1) (.lit 1) 7) ∧
    findLabel [.beq (.lit 1) (.lit 1) 7, .halt, .label 7] 7 = some 2 ∧ evalExpr [] (.lit 1) = evalExpr [] (.lit 1) ∧
    performs (hostState State.reset [.bne (.lit 1) (.lit 2) 7, .label 7] []) 0 (.bne (.lit 1) (.lit 2) 7) ∧
    findLabel [.bne (.lit 1) (.lit 2) 7, .label 7] 7 = some 1 ∧ evalExpr [] (.lit 1) ≠ evalExpr [] (.lit 2) :=
  ⟨⟨_, rfl, rfl⟩, by decide, rfl, ⟨_, rfl, rfl⟩, by decide, by decide⟩
theorem witness_ControlForms_ends :
    performs (hostState State.reset [.halt] []) 0 .halt ∧ performs (hostState State.reset [.fatal] []) 0 .fatal ∧
    performs (hostState State.reset [.ret (.lit (-22))] []) 0 (.ret (.lit (-22))) :=
  ⟨⟨_, rfl, rfl⟩, ⟨_, rfl, rfl⟩, ⟨_, rfl, rfl⟩⟩
theorem witness_ControlForms_local :
    performs (hostState State.reset [.label 7, .halt] []) 0 (.label 7) ∧
    ([.label 7, .halt] : List Form)[0]? = some (.label 7) ∧
    (∀ q, ([.label 7, .halt] : List Form)[q]? = some (.label 7) → q = 0) ∧
    performs (hostState State.reset [.assign 3 (.lit 5)] []) 0 (.assign 3 (.lit 5)) :=
  ⟨⟨_, rfl, rfl⟩, rfl, fun q h => by match q with | 0 => rfl | 1 => simp at h | n + 2 => simp at h, ⟨_, rfl, rfl⟩⟩
theorem witness_PowerOnResetValues : State.reset = State.powerOn Params.example [] := rfl

/-- A reset in progress completes in the first step; after it nothing is enabled. -/
def rstRun : Nat → State
  | 0 => { State.reset with inReset := true }
  | _ + 1 => State.reset

theorem rstRun_disabled (m : Nat) (u : Turn) (hu : ∀ p, u ≠ .wireRx p) (he : u ≠ .rst) : turnEnabled (rstRun m) u = false := by
  cases m <;> cases u <;> first | rfl | exact absurd rfl (hu _) | exact absurd rfl he

theorem witness_SoftwareReset_fair :
    fairRun (fun _ => .rst) rstRun ∧ (∀ m, 0 ≤ m → (rstRun m).faults = []) ∧ (rstRun 0).inReset = true := by
  refine ⟨⟨?_, ?_, ?_, ?_, fun n _ => ⟨n, Nat.le_refl n, rfl⟩, ?_, ?_⟩, fun m _ => by cases m <;> rfl, rfl⟩
  · intro n; cases n <;> rfl
  · intro n h
    exact absurd (h _ (Nat.le_refl _)) (by rw [rstRun_disabled _ _ (by simp) (by simp)]; simp)
  · intro n h
    exact absurd (h _ (Nat.le_refl _)) (by rw [rstRun_disabled _ _ (by simp) (by simp)]; simp)
  · intro n h
    exact absurd (h _ (Nat.le_refl _)) (by rw [rstRun_disabled _ _ (by simp) (by simp)]; simp)
  · intro k n h
    exact absurd (h _ (Nat.le_refl _)) (by rw [rstRun_disabled _ _ (by simp) (by simp)]; simp)
  · intro n h
    exact absurd (h _ (Nat.le_refl _)).1 (by rw [rstRun_disabled _ _ (by simp) (by simp)]; simp)
theorem witness_SoftwareReset_start :
    (0x04000000#32).getLsbD 26 = true ∧ (∃ t, exec (.csrwCtrl 0x04000000) State.reset = .next t) :=
  ⟨by decide, next_of_goesOn (by decide)⟩
theorem witness_SoftwareReset_held :
    (reading true 0x00008 4).inReset = true ∧ issues (reading true 0x00008 4) 0 ⟨false, 0x00008, 4, 0⟩ ∧
    checkTransaction ⟨false, 0x00008, 4, 0⟩ = .ok .csrrStatus ∧
    performs (hostState { State.reset with inReset := true } [.load .word 1 (.lit 0)] []) 0 (.load .word 1 (.lit 0)) ∧
    performs (hostState { State.reset with inReset := true } [.store .byte (.lit 0) (.lit 1)] []) 0
      (.store .byte (.lit 0) (.lit 1)) :=
  ⟨rfl, ⟨_, _, rfl, rfl, rfl⟩, rfl, ⟨_, rfl, rfl⟩, ⟨_, rfl, rfl⟩⟩
theorem witness_FaultsArePreciseAndTerminal :
    (reading false 0x000C8 4).faults = [] ∧
    step { reading false 0x000C8 4 with agenda := [.host 0] } = .fault (.csrReadWriteOnly 0x000C8) ∧
    (State.reset.recordFault (.csrReadWriteOnly 0x000C8)).faults = .csrReadWriteOnly 0x000C8 :: [] :=
  ⟨rfl, fault_of_faultsWith (by decide), rfl⟩
theorem witness_StepKeepsLegal :
    ({ txFetched true false 0 true with agenda := [.txc, .rst] } : State).Legal ∧
    ∃ t, step { txFetched true false 0 true with agenda := [.txc, .rst] } = .next t :=
  ⟨by decide +kernel, next_of_goesOn (by decide +kernel)⟩
/-- TXC raises causes 0 and 1; a read of ICR clears a cause. -/
theorem witness_CausesChangeOnlyByTheirEvents :
    goesOn (step { txFetched true false 0 true with agenda := [.txc] }) (fun s => s.regs.icr == 3#17) = true ∧
    (txFetched true false 0 true).regs.icr = 0#17 ∧
    goesOn (step { hostState (regState fun r => { r with icr := 0x40 }) [.csrr 0 0x000C0 4] [] with agenda := [.host 0] })
      (fun s => s.regs.icr == 0#17) = true := by decide +kernel
/-- A host write moves TDT from 0 to 7, another RDT from 0 to 127. -/
theorem witness_TailsMoveOnlyByHostWrites :
    goesOn (step { hostState (txRing 1 0 0) [.csrw 0x03818 4 (.lit 7)] [] with agenda := [.host 0] })
      (fun s => s.regs.tx.tail == 7#16) = true ∧ (txRing 1 0 0).regs.tx.tail = 0 ∧
    goesOn (step { hostState (rxRing 16 0 0) [.csrw 0x02818 4 (.lit 127)] [] with agenda := [.host 0] })
      (fun s => s.regs.rx.tail == 127#16) = true ∧ (rxRing 16 0 0).regs.rx.tail = 0 := by decide +kernel
theorem witness_LinkOutputOnlyGrows :
    goesOn (step { txFetched true false 0 true with agenda := [.txc] }) (fun s => s.wireOut.length == 1) = true := by
  decide +kernel

end Sys2Proof.Tests
end

section
/-! PROOFS. What each agent's step can do, said once: one inversion lemma per agent. A lemma here says of a step
that goes on which state it answers and which checks it passed. -/

namespace Sys2Proof.Machine

/-! ## CSR transactions -/

/-- A guarded rule goes on exactly when its guard lets it. -/
theorem guard_eq_next {c : Prop} [Decidable c] {f : Fault} {u t : State} :
    (if c then .fault f else .next u : Result) = .next t ↔ ¬c ∧ t = u := by
  by_cases hc : c <;> simp [hc, eq_comm]

/-- What a CSR read may change: the value on the bus, the count of draws, and the causes of ICR. -/
def ReadOutcome (s t : State) : Prop :=
  ∃ (v : Word) (k : Nat) (c : BitVec 17),
    t = { s with busData := v, drawn := k, regs := { s.regs with icr := c } }

theorem readOutcome_of_returnDrawn {s t : State} {v x : Word} (h : (.next (s.returnDrawn v x) : Result) = .next t) :
    ReadOutcome s t := by
  cases h
  exact ⟨_, _, _, rfl⟩

theorem readOutcome_of_readCells {s t : State} {o : Nat} {c : RegCell 32} {x : Word}
    (h : readCells s o c x = .next t) : ReadOutcome s t := by
  obtain ⟨v, _, rfl⟩ := readCells_eq_next.1 h
  exact ⟨_, _, _, rfl⟩

theorem readOutcome_of_readCell {s t : State} {o : Nat} {c : RegCell 32} (h : readCell s o c = .next t) :
    ReadOutcome s t := by
  obtain ⟨v, _, rfl⟩ := readCell_eq_next.1 h
  exact ⟨_, _, _, rfl⟩

/-- R70: every read that goes on returns a value, and changes no stored register but ICR. -/
theorem exec_read_outcome {i : Instr} {s t : State} (hi : i.data = none) (h : exec i s = .next t) :
    ReadOutcome s t := by
  cases i with
  | csrrCtrl | csrrTctl | csrrTipg | csrrRdbal | csrrTdbal | csrrRah _ => exact readOutcome_of_readCells h
  | csrrRdbah | csrrTdbah | csrrRal _ | csrrMta _ => exact readOutcome_of_readCell h
  | csrrEecd | csrrEerd | csrrIms | csrrRctl | csrrRdlen | csrrRdh | csrrRdt | csrrTdlen | csrrTdh | csrrTdt =>
    exact readOutcome_of_returnDrawn h
  | csrrStatus | csrrIcr => cases h; exact ⟨_, _, _, rfl⟩
  | csrrIcs | csrrImc => cases h
  | _ => cases hi

/-! ## Host forms -/

/-- R158: the bytes a host store writes are as many as its width. -/
@[simp] theorem bytesOfNat_length (n v : Nat) : (bytesOfNat n v).length = n := by
  induction n generalizing v with
  | zero => rfl
  | succ n ih => simp [bytesOfNat, ih]

/-- R48, R158: `vs` at `a` is nothing, or bytes inside host memory of which none is hardware-owned. -/
def Storable (s : State) (a : Nat) (vs : List Byte) : Prop :=
  (vs = [] ∨ a + vs.length ≤ s.params.memBytes) ∧ ∀ x, a ≤ x → x < a + vs.length → hwOwner s x = none

theorem storable_nil (s : State) (a : Nat) : Storable s a [] :=
  ⟨.inl rfl, fun x h1 h2 => by simp only [List.length_nil] at h2; omega⟩

/-- What a form of task `k` other than a CSR form may change: memory by one store, the count of draws, the task. -/
def LocalOutcome (k : Nat) (s t : State) : Prop :=
  ∃ (a : Nat) (vs : List Byte) (d : Nat) (task : Task), Storable s a vs ∧
    t = ({ s with mem := Memory.writeBytes s.mem a vs, drawn := d } : State).setTask k task

theorem localOutcome_setTask {k : Nat} {s t : State} {task : Task} (d : Nat)
    (h : (.next (({ s with drawn := d } : State).setTask k task) : Result) = .next t) : LocalOutcome k s t := by
  cases h
  exact ⟨0, [], d, task, storable_nil s 0, rfl⟩

/-- R157: a load changes only its task and the count of draws. -/
theorem hostLoad_outcome {k : Nat} {task : Task} {w : Width} {d : Nat} {a : Expr} {s t : State}
    (h : hostLoad k task w d a s = .next t) : LocalOutcome k s t := by
  simp only [hostLoad] at h
  split at h
  · cases h
  split at h <;> split at h
  · cases h
  · obtain ⟨j, hj⟩ := loadBytes_state s (evalExpr task.temps a).toNat (widthBytes w)
    simp only [hj] at h
    exact localOutcome_setTask j h
  · cases h
  · obtain ⟨j, hj⟩ := loadByte_state s ((evalExpr task.temps a).toNat + task.moved.length)
    simp only [hj] at h
    split at h <;> exact localOutcome_setTask j h

/-- R158: a store that goes on writes bytes inside memory that the hardware does not own. -/
theorem hostStore_outcome {k : Nat} {task : Task} {w : Width} {a e : Expr} {s t : State}
    (h : hostStore k task w a e s = .next t) : LocalOutcome k s t := by
  simp only [hostStore] at h
  split at h
  · cases h
  split at h <;> split at h
  · cases h
  · next hin =>
    split at h
    · cases h
    · next hown =>
      cases h
      refine ⟨_, storeBytes (widthBytes w) (evalExpr task.temps e), s.drawn, _, ⟨.inr ?_, fun x h1 h2 => ?_⟩, rfl⟩
      · simpa [storeBytes] using hin
      · exact firstOwner_eq_none.1 hown x h1 (by simpa [storeBytes] using h2)
  · cases h
  · next hin =>
    split at h
    · cases h
    · next hown =>
      have hst (b : Byte) : Storable s ((evalExpr task.temps a).toNat + task.moved.length) [b] := by
        refine ⟨.inr (by simp only [List.length_singleton]; omega), fun x h1 h2 => ?_⟩
        simp only [List.length_singleton] at h2
        obtain rfl : x = (evalExpr task.temps a).toNat + task.moved.length := by omega
        exact hown
      split at h <;> cases h <;> exact ⟨_, _, s.drawn, _, hst _, rfl⟩

theorem hostJump_outcome {k l : Nat} {task : Task} {s t : State} (h : hostJump k task l s = .next t) :
    LocalOutcome k s t := by
  simp only [hostJump] at h
  split at h
  · cases h
  · exact localOutcome_setTask s.drawn h

/-- R69: a CSR form is held, or runs a register's rule. -/
theorem hostCsr_outcome {k : Nat} {task : Task} {f : Form} {x : Transaction} {s t : State}
    (h : hostCsr k task f x s = .next t) :
    t = s ∨ ∃ i u task', exec i s = .next u ∧ t = u.setTask k task' := by
  simp only [hostCsr] at h
  split at h
  · cases h
  · split at h
    · cases h; exact .inl rfl
    · obtain ⟨u, hu, hn⟩ := andThen_eq_next.1 h
      cases hn
      exact .inr ⟨_, u, _, hu, rfl⟩

/-- What a host step that goes on can be: nothing, a CSR transaction, or a form that touches memory and its task
at most. -/
theorem hostStep_outcome {k : Nat} {s t : State} (h : hostStep k s = .next t) :
    (t = s ∨ ∃ i u task, exec i s = .next u ∧ t = u.setTask k task) ∨ LocalOutcome k s t := by
  unfold hostStep at h
  split at h
  · cases h; exact .inl (.inl rfl)
  split at h
  · cases h; exact .inl (.inl rfl)
  · next f _ =>
    cases f with
    | csrr | csrw => exact .inl (hostCsr_outcome h)
    | load => exact .inr (hostLoad_outcome h)
    | store => exact .inr (hostStore_outcome h)
    | label | assign | halt | fatal | ret => exact .inr (localOutcome_setTask s.drawn h)
    | beq =>
      simp only [hostForm] at h
      split at h
      · exact .inr (hostJump_outcome h)
      · exact .inr (localOutcome_setTask s.drawn h)
    | bne =>
      simp only [hostForm] at h
      split at h
      · exact .inr (localOutcome_setTask s.drawn h)
      · exact .inr (hostJump_outcome h)

/-! ## Device steps -/

/-- R106: a fetch that goes on passed every check of the descriptor `d` at the head. -/
theorem txfStep_eq_next {s t : State} (h : txfStep s = .next t) :
    ∃ base d, s.regs.tx.base = some base ∧ d = readTxDesc s.mem (descAddr base s.regs.tx.head.toNat) ∧
      dmaInRange s (descAddr base s.regs.tx.head.toNat) 16 = true ∧ txCmdRefused d.cmd = false ∧
      1 ≤ d.len.toNat ∧ d.len.toNat ≤ Config.txDescMaxLen ∧ dmaInRange s d.addr.toNat d.len.toNat = true ∧
      t = { s.setTx (s.regs.tx.advance 1) with
        txInflight := s.txInflight ++
          [fetchedEntry s s.regs.tx.head.toNat (descAddr base s.regs.tx.head.toNat) d] } := by
  simp only [txfStep] at h
  split at h
  · cases h
  · next base hbase =>
    split at h
    · cases h
    · next hda =>
      split at h
      · cases h
      · next hcmd =>
        split at h
        · cases h
        · next hlen =>
          obtain ⟨hbuf, rfl⟩ := guard_eq_next.1 h
          refine ⟨base, _, hbase, rfl, by simpa using hda, by simpa using hcmd, by omega, by omega,
            by simpa using hbuf, rfl⟩

/-- R107: a completion takes the oldest entry, sends its frame, and with RS = 1 writes one byte of its descriptor. -/
theorem txcStep_outcome {s t : State} (h : txcStep s = .next t) :
    (s.txInflight = [] ∧ t = s) ∨
      ∃ e rest m, s.txInflight = e :: rest ∧
        ((e.rs = false ∧ m = s.mem) ∨
          (e.rs = true ∧ e.daddr.toNat + 12 + 1 ≤ s.params.memBytes ∧
            m = Memory.write s.mem (e.daddr.toNat + 12) (staWriteBack e.staHi))) ∧
        t = { emitEntry { s with txInflight := rest } e with
          mem := m, regs := { s.regs with icr := txcCauses s e rest } } := by
  simp only [txcStep] at h
  split at h
  · next hnil => cases h; exact .inl ⟨hnil, rfl⟩
  · next e rest hcons =>
    refine .inr ⟨e, rest, t.mem, hcons, ?_⟩
    split at h
    · next hrs =>
      obtain ⟨hda, rfl⟩ := guard_eq_next.1 h
      have hda : e.daddr.toNat + 12 + 1 ≤ s.params.memBytes := by simpa [dmaInRange] using hda
      exact ⟨.inr ⟨hrs, hda, rfl⟩, rfl⟩
    · next hrs =>
      cases h
      exact ⟨.inl ⟨by simpa using hrs, rfl⟩, rfl⟩

/-- R131: a frame the link offers is dropped, or was short enough and accepted. -/
theorem wireRxStep_outcome {p : Frame} {s t : State} (h : wireRxStep p s = .next t) :
    t = s ∨ (p.length ≤ rxMaxFrame s.regs.rctl ∧ rxFilter s.regs p = .ok true ∧ t = wireRxAccept p s) := by
  simp only [wireRxStep] at h
  split at h
  · cases h; exact .inl rfl
  split at h
  · cases h; exact .inl rfl
  · next hlen =>
    split at h
    · cases h
    · cases h; exact .inl rfl
    · next hok => cases h; exact .inr ⟨by omega, hok, rfl⟩

/-- R132: an RXD step does nothing without a frame or a buffer size; else it drops the oldest frame, which no ring of
this size can hold, or deposits it over as many descriptors as it takes. -/
theorem rxdStep_outcome {s t : State} (h : rxdStep s = .next t) :
    ((∀ q rest b, s.rxFifo = q :: rest → s.regs.rctl.bufSize ≠ some b) ∧ t = s) ∨
      ∃ q rest b, s.rxFifo = q :: rest ∧ s.regs.rctl.bufSize = some b ∧
      ((s.regs.rx.slots - 1 < chunkCount q.length b ∧
          t = { s with rxFifo := rest, regs := { s.regs with icr := setCause s.regs.icr .rxo } }) ∨
        (chunkCount q.length b ≤ s.regs.rx.slots - 1 ∧ ∃ base ds icr, s.regs.rx.base = some base ∧
          planDeposits s base s.regs.rx.head.toNat (chunks b (chunkCount q.length b) q) = .ok ds ∧
          t = { s with
            mem := applyDeposits s.mem s.drawn ds
            drawn := s.drawn + 3 * chunkCount q.length b
            rxFifo := rest
            regs := { s.regs with rx := s.regs.rx.advance (chunkCount q.length b), icr := icr } })) := by
  simp only [rxdStep] at h
  split at h
  · next q rest b hq hb =>
    refine .inr ⟨q, rest, b, hq, hb, ?_⟩
    split at h
    · next hk => cases h; exact .inl ⟨hk, rfl⟩
    · next hk =>
      split at h
      · cases h
      · next base hbase =>
        split at h
        · cases h
        · next ds hds => cases h; exact .inr ⟨by omega, base, ds, _, hbase, hds, rfl⟩
  · next hnone => cases h; exact .inl ⟨hnone, rfl⟩

/-- R177: completing a reset leaves the parameters, memory, the fault record and the tasks, and may add frames to
the link output. -/
theorem rstStep_outcome {s t : State} (h : rstStep s = .next t) :
    ∃ out k, t = { s with
      wireOut := s.wireOut ++ out, drawn := k, txInflight := [], rxFifo := [], eerdPending := false
      eerdReqAddr := 0, regs := Csrs.reset, inReset := false } := by
  obtain ⟨out, k, hemit⟩ := emitSome_state s.txInflight s
  unfold rstStep at h
  rw [hemit] at h
  cases h
  exact ⟨out, k, rfl⟩

end Sys2Proof.Machine
end

section
/-! PROOFS. The invariant State.Legal: which operations keep which part of it, and that every step keeps it all. -/

namespace Sys2Proof.Machine

/-! ## One rule per part of the invariant

Every other field of the state is free in State.Legal, so a legal state stays legal, by unfolding alone, when one of
those is replaced. -/

section
variable {s : State} (h : s.Legal)
include h

/-- R8: MEM_BYTES is within the addresses a device can reach. -/
theorem State.Legal.memBytes_le : s.params.memBytes ≤ 2 ^ 32 := by
  obtain ⟨hparams, _⟩ := h
  simp only [Params.wellFormed, Bool.and_eq_true] at hparams
  obtain ⟨⟨hmem, _⟩, _⟩ := hparams
  exact of_decide_eq_true hmem

theorem State.Legal.memory : Memory.wf s.mem = true ∧ Memory.below s.params.memBytes s.mem := by
  obtain ⟨_, hwf, hbelow, _⟩ := h
  exact ⟨hwf, hbelow⟩

theorem State.Legal.raAt (n : BitVec 4) : (s.regs.raAt n).legal := by
  obtain ⟨_, _, _, _, _, _, hra, _⟩ := h
  exact hra _ (by simp [Csrs.raAt, Vector.get])

theorem State.Legal.inflight :
    s.txInflight.length ≤ s.params.txInflightMax ∧ ∀ e ∈ s.txInflight, e.legal s := by
  obtain ⟨_, _, _, _, _, _, _, _, hlen, hentries, _⟩ := h
  exact ⟨hlen, hentries⟩

theorem State.Legal.fifo :
    s.rxFifo.length ≤ s.params.rxFifoFrames ∧
      ∀ q ∈ s.rxFifo, Config.minFrame ≤ q.length ∧ q.length ≤ Config.rxMaxLpe + 4 := by
  obtain ⟨_, _, _, _, _, _, _, _, _, _, hlen, hframes⟩ := h
  exact ⟨hlen, hframes⟩

/-- R37: memory replaced by a canonical one inside MEM_BYTES. -/
theorem State.Legal.withMem {m : Memory} (hwf : Memory.wf m = true) (hbelow : Memory.below s.params.memBytes m) :
    ({ s with mem := m } : State).Legal := by
  obtain ⟨hparams, _, _, hrest⟩ := h
  exact ⟨hparams, hwf, hbelow, hrest⟩

/-- R37: memory after a write that lies inside MEM_BYTES. -/
theorem State.Legal.writeBytes {a : Nat} {vs : List Byte} (ha : vs = [] ∨ a + vs.length ≤ s.params.memBytes) :
    ({ s with mem := Memory.writeBytes s.mem a vs } : State).Legal := by
  obtain ⟨hwf, hbelow⟩ := h.memory
  exact h.withMem (Memory.writeBytes_wf hwf a vs) (Memory.writeBytes_below hbelow vs ha)

/-- R74: CTRL replaced by one without a refused bit. -/
theorem State.Legal.withCtrl {c : Ctrl} (hc : c.legal) :
    ({ s with regs := { s.regs with ctrl := c } } : State).Legal := by
  obtain ⟨hparams, hwf, hbelow, _, hrest⟩ := h
  exact ⟨hparams, hwf, hbelow, hc, hrest⟩

/-- R112: RCTL replaced by one without a refused field value. -/
theorem State.Legal.withRctl {r : Rctl} (hr : r.legal) :
    ({ s with regs := { s.regs with rctl := r } } : State).Legal := by
  obtain ⟨hparams, hwf, hbelow, hctrl, _, hrest⟩ := h
  exact ⟨hparams, hwf, hbelow, hctrl, hr, hrest⟩

/-- R93: TCTL replaced by one with SWXOFF = 0. -/
theorem State.Legal.withTctl {c : Tctl} (hc : c.swxoff = false) :
    ({ s with regs := { s.regs with tctl := c } } : State).Legal := by
  obtain ⟨hparams, hwf, hbelow, hctrl, hrctl, _, hrest⟩ := h
  exact ⟨hparams, hwf, hbelow, hctrl, hrctl, hc, hrest⟩

/-- R126: one receive-address pair replaced by a legal one. -/
theorem State.Legal.withRa {n : BitVec 4} {e : RaEntry} (he : e.legal) :
    ({ s with regs := s.regs.setRa n e } : State).Legal := by
  obtain ⟨hparams, hwf, hbelow, hctrl, hrctl, htctl, hra, hrest⟩ := h
  refine ⟨hparams, hwf, hbelow, hctrl, hrctl, htctl, fun x hx => ?_, hrest⟩
  simp only [Csrs.setRa, Vector.toList_set] at hx
  rcases List.mem_or_eq_of_mem_set hx with hx | rfl
  · exact hra x hx
  · exact he

/-- R88, R89: DONE and a pending read replaced, not both set. -/
theorem State.Legal.withEerd {pending done : Bool} (he : pending = true → done = false) :
    ({ s with eerdPending := pending, regs := { s.regs with eerdDone := done } } : State).Legal := by
  obtain ⟨hparams, hwf, hbelow, hctrl, hrctl, htctl, hra, _, hrest⟩ := h
  exact ⟨hparams, hwf, hbelow, hctrl, hrctl, htctl, hra, he, hrest⟩

/-- R97 to R103: the TX ring may be set up anew while nothing is in flight. -/
theorem State.Legal.setTx_of_quiet (r : RingRegs) (hquiet : txQuiet s = true) : (s.setTx r).Legal := by
  obtain ⟨hparams, hwf, hbelow, hctrl, hrctl, htctl, hra, heerd, hlen, _, hrest⟩ := h
  simp only [txQuiet, Bool.and_eq_true, List.isEmpty_iff] at hquiet
  obtain ⟨_, hnil⟩ := hquiet
  exact ⟨hparams, hwf, hbelow, hctrl, hrctl, htctl, hra, heerd, hlen, by simp [hnil], hrest⟩

/-- R29: the queue in flight replaced by a short enough one of entries as a fetch checked them. -/
theorem State.Legal.withInflight {es : List TxEntry} (hlen : es.length ≤ s.params.txInflightMax)
    (hes : ∀ e ∈ es, e.legal s) : ({ s with txInflight := es } : State).Legal := by
  obtain ⟨hparams, hwf, hbelow, hctrl, hrctl, htctl, hra, heerd, _, _, hrest⟩ := h
  exact ⟨hparams, hwf, hbelow, hctrl, hrctl, htctl, hra, heerd, hlen, hes, hrest⟩

/-- R29: the FIFO replaced by a short enough one of frames of a length the link delivers. -/
theorem State.Legal.withFifo {qs : List Frame} (hlen : qs.length ≤ s.params.rxFifoFrames)
    (hqs : ∀ q ∈ qs, Config.minFrame ≤ q.length ∧ q.length ≤ Config.rxMaxLpe + 4) :
    ({ s with rxFifo := qs } : State).Legal := by
  obtain ⟨hparams, hwf, hbelow, hctrl, hrctl, htctl, hra, heerd, hinflight, hentries, _, _⟩ := h
  exact ⟨hparams, hwf, hbelow, hctrl, hrctl, htctl, hra, heerd, hinflight, hentries, hlen, hqs⟩

/-- R107: the oldest entry in flight taken off. -/
theorem State.Legal.tailInflight {e : TxEntry} {rest : List TxEntry} (hcons : s.txInflight = e :: rest) :
    ({ s with txInflight := rest } : State).Legal := by
  obtain ⟨hlen, hentries⟩ := h.inflight
  rw [hcons] at hlen hentries
  exact h.withInflight (Nat.le_of_succ_le hlen) fun x hx => hentries x (List.mem_cons_of_mem _ hx)

/-- R132: the oldest frame of the FIFO taken off. -/
theorem State.Legal.tailFifo {q : Frame} {rest : List Frame} (hcons : s.rxFifo = q :: rest) :
    ({ s with rxFifo := rest } : State).Legal := by
  obtain ⟨hlen, hframes⟩ := h.fifo
  rw [hcons] at hlen hframes
  exact h.withFifo (Nat.le_of_succ_le hlen) fun x hx => hframes x (List.mem_cons_of_mem _ hx)

end

/-! ## Written register values -/

/-- R59: a one-bit field is its bit. -/
theorem field_one (v : Word) (i : Nat) : field v i 1 = BitVec.ofBool (v.getLsbD i) := by
  apply BitVec.eq_of_getLsbD_eq
  intro j hj
  obtain rfl : j = 0 := by omega
  simp [field]

theorem field_one_eq_one {v : Word} {i : Nat} : field v i 1 = 1#1 ↔ v.getLsbD i = true := by
  rw [field_one]
  cases v.getLsbD i <;> decide

/-- R74: the CTRL of a value that is not refused is legal. -/
theorem ctrl_ofWord_legal {v : Word} (hv : ¬ctrlRefused v = true) : (Ctrl.ofWord v).legal := by
  simp only [ctrlRefused, Bool.or_eq_true, not_or] at hv
  obtain ⟨⟨⟨⟨hlrst, hrfce⟩, htfce⟩, hvme⟩, hphy⟩ := hv
  simp only [Ctrl.legal, Ctrl.ofWord, ne_eq, Option.some.injEq, field_one_eq_one]
  exact ⟨hlrst, hrfce, htfce, hvme, hphy⟩

/-- R112: the RCTL of a value that is not refused is legal. -/
theorem rctl_ofWord_legal {v : Word} (hv : ¬rctlRefused v = true) : (Rctl.ofWord v).legal := by
  simpa [rctlRefused, Rctl.legal, Rctl.ofWord, and_assoc] using hv

/-! ## CSR transactions -/

/-- A CSR transaction that goes on keeps the invariant: a read changes nothing it speaks of, and each write that
could break it is refused or, for the TX ring, needs a quiet TX side. -/
theorem exec_keeps_legal {i : Instr} {s t : State} (h : s.Legal) (hx : exec i s = .next t) : t.Legal := by
  cases hdata : i.data with
  | none =>
    obtain ⟨v, k, c, rfl⟩ := exec_read_outcome hdata hx
    exact h
  | some w =>
    cases i with
    | csrwCtrl v =>
      obtain ⟨hv, rfl⟩ := guard_eq_next.1 hx
      exact h.withCtrl (ctrl_ofWord_legal hv)
    | csrwRctl v =>
      simp only [exec, execCsrwRctl] at hx
      split at hx
      · cases hx
      · next hv =>
        obtain ⟨_, rfl⟩ := guard_eq_next.1 hx
        exact h.withRctl (rctl_ofWord_legal hv)
    | csrwTctl v =>
      obtain ⟨_, rfl⟩ := guard_eq_next.1 hx
      exact h.withTctl rfl
    | csrwEerd v =>
      simp only [exec, execCsrwEerd] at hx
      split at hx <;> cases hx
      · exact h.withEerd (pending := true) (done := false) fun _ => rfl
      · exact h
    | csrwRal n v =>
      cases hx
      exact h.withRa (h.raAt n)
    | csrwRah n v =>
      obtain ⟨_, rfl⟩ := guard_eq_next.1 hx
      exact h.withRa (.inr rfl)
    | csrwTdbal v | csrwTdbah v | csrwTdlen v =>
      obtain ⟨hquiet, rfl⟩ := guard_eq_next.1 hx
      exact h.setTx_of_quiet _ (by simpa using hquiet)
    | csrwTdh v =>
      simp only [exec, execCsrwTdh] at hx
      split at hx
      · cases hx
      · obtain ⟨_, rfl⟩ := guard_eq_next.1 hx
        exact h
    | csrwRdbal v | csrwRdbah v | csrwRdlen v =>
      obtain ⟨_, rfl⟩ := guard_eq_next.1 hx
      exact h
    | csrwRdh v =>
      simp only [exec, execCsrwRdh] at hx
      split at hx
      · cases hx
      · obtain ⟨_, rfl⟩ := guard_eq_next.1 hx
        exact h
    | csrwTdt v =>
      simp only [exec, execCsrwTdt] at hx
      split at hx <;> cases hx
      exact h
    | csrwRdt v =>
      simp only [exec, execCsrwRdt] at hx
      split at hx <;> cases hx
      exact h
    | csrwStatus | csrwEecd | csrwIcr | csrwIcs | csrwIms | csrwImc | csrwTipg | csrwMta => cases hx; exact h
    | _ => cases hdata

/-- R158, R48: a host step keeps the invariant: a CSR transaction does, and a store stays inside memory. -/
theorem hostStep_keeps_legal {k : Nat} {s t : State} (h : s.Legal) (hx : hostStep k s = .next t) : t.Legal := by
  rcases hostStep_outcome hx with (rfl | ⟨i, u, task, hexec, rfl⟩) | ⟨a, vs, d, task, ⟨ha, _⟩, rfl⟩
  · exact h
  · have hu : u.Legal := exec_keeps_legal h hexec
    exact hu
  · exact h.writeBytes ha

/-! ## Device steps -/

/-- R106: the entry a fetch makes in a ring that holds its head is as the fetch checked it; addresses inside
MEM_BYTES do not wrap in 64 bits. -/
theorem fetchedEntry_legal {s : State} {base : Nat} {d : TxDesc} (hmem : s.params.memBytes ≤ 2 ^ 32)
    (hhead : s.regs.tx.head.toNat < s.regs.tx.slots) (hbase : s.regs.tx.base = some base)
    (hda : dmaInRange s (descAddr base s.regs.tx.head.toNat) 16 = true) (hmin : 1 ≤ d.len.toNat)
    (hmax : d.len.toNat ≤ Config.txDescMaxLen) (hbuf : dmaInRange s d.addr.toNat d.len.toNat = true) :
    (fetchedEntry s s.regs.tx.head.toNat (descAddr base s.regs.tx.head.toNat) d).legal s := by
  have hda : descAddr base s.regs.tx.head.toNat + 16 ≤ s.params.memBytes := by simpa [dmaInRange] using hda
  have hbuf : d.addr.toNat + d.len.toNat ≤ s.params.memBytes := by
    rcases dmaInRange_eq.1 hbuf with h0 | h0 <;> omega
  have hslot : (BitVec.ofNat 16 s.regs.tx.head.toNat).toNat = s.regs.tx.head.toNat := by simp
  have hdaddr : (BitVec.ofNat 64 (descAddr base s.regs.tx.head.toNat)).toNat = base + 16 * s.regs.tx.head.toNat :=
    Nat.mod_eq_of_lt (by omega)
  simp only [TxEntry.legal, fetchedEntry, Memory.readBytes_length, hslot, hdaddr, Nat.add_sub_cancel]
  exact ⟨hhead, hbase, by omega, hda, hmin, hmax, hbuf⟩

/-- R106: a fetch keeps the invariant: there was room in the queue, and its entry is as checked. -/
theorem txfStep_keeps_legal {s t : State} (h : s.Legal) (hen : txfEnabled s = true) (hx : txfStep s = .next t) :
    t.Legal := by
  obtain ⟨_, hentries⟩ := h.inflight
  simp only [txfEnabled, RingRegs.usable, Bool.and_eq_true, decide_eq_true_eq] at hen
  obtain ⟨⟨⟨_, ⟨_, hhead⟩, _⟩, _⟩, hroom⟩ := hen
  obtain ⟨base, d, hbase, _, hda, _, hmin, hmax, hbuf, rfl⟩ := txfStep_eq_next hx
  have hnew := fetchedEntry_legal h.memBytes_le hhead hbase hda hmin hmax hbuf
  refine h.withInflight (es := s.txInflight ++ [_]) (by simpa using hroom) fun e he => ?_
  rcases List.mem_append.1 he with he | he
  · exact hentries e he
  · obtain rfl := List.mem_singleton.1 he
    exact hnew

/-- R107: a completion keeps the invariant: its one byte lies inside memory. -/
theorem txcStep_keeps_legal {s t : State} (h : s.Legal) (hx : txcStep s = .next t) : t.Legal := by
  rcases txcStep_outcome hx with ⟨_, rfl⟩ | ⟨e, rest, m, hcons, ⟨_, rfl⟩ | ⟨_, hin, rfl⟩, rfl⟩
  · exact h
  · exact h.tailInflight hcons
  · exact (h.tailInflight hcons).writeBytes (vs := [staWriteBack e.staHi]) (.inr hin)

@[simp] theorem drawBytes_length (k n : Nat) : (drawBytes k n).length = n := by
  induction n generalizing k with
  | zero => rfl
  | succ n ih => simp [drawBytes, ih]

/-- R131: an accepted frame of a length the link delivers keeps the invariant; the FIFO takes it only with room. -/
theorem wireRxAccept_legal {p : Frame} {s : State} (h : s.Legal) (hmin : Config.minFrame ≤ p.length)
    (hmax : p.length ≤ rxMaxFrame s.regs.rctl) : (wireRxAccept p s).Legal := by
  obtain ⟨_, hframes⟩ := h.fifo
  have hmax : p.length ≤ Config.rxMaxLpe := by
    refine hmax.trans ?_
    unfold rxMaxFrame
    split <;> decide
  simp only [wireRxAccept]
  split
  · exact h
  · next hroom =>
    refine h.withFifo (qs := s.rxFifo ++ [p ++ drawBytes _ _]) (by simpa using hroom) fun q hq => ?_
    rcases List.mem_append.1 hq with hq | hq
    · exact hframes q hq
    · obtain rfl := List.mem_singleton.1 hq
      simp only [List.length_append, drawBytes_length]
      split <;> omega

theorem wireRxStep_keeps_legal {p : Frame} {s t : State} (h : s.Legal) (hen : wireRxEnabled p = true)
    (hx : wireRxStep p s = .next t) : t.Legal := by
  rcases wireRxStep_outcome hx with rfl | ⟨hmax, _, rfl⟩
  · exact h
  · exact wireRxAccept_legal h (of_decide_eq_true hen) hmax

/-- R132: a deposit keeps the invariant: every write of the plan lies inside memory. -/
theorem rxdStep_keeps_legal {s t : State} (h : s.Legal) (hx : rxdStep s = .next t) : t.Legal := by
  rcases rxdStep_outcome hx with ⟨_, rfl⟩ | ⟨q, rest, b, hcons, _, ⟨_, rfl⟩ | ⟨_, base, ds, icr, _, hplan, rfl⟩⟩
  · exact h
  · exact h.tailFifo hcons
  · obtain ⟨hwf, hbelow⟩ := h.memory
    obtain ⟨_, hds⟩ := planDeposits_ok hplan
    exact (h.tailFifo hcons).withMem (applyDeposits_wf hwf s.drawn ds) (applyDeposits_below hbelow s.drawn hds)

/-- R177: after a reset every register and queue is as the invariant asks. -/
theorem rstStep_keeps_legal {s t : State} (h : s.Legal) (hx : rstStep s = .next t) : t.Legal := by
  obtain ⟨out, k, rfl⟩ := rstStep_outcome hx
  obtain ⟨hparams, hwf, hbelow, _⟩ := h
  have hctrl : Csrs.reset.ctrl.legal := by decide
  have hrctl : Csrs.reset.rctl.legal := by decide
  have hra : ∀ e ∈ Csrs.reset.ra.toList, e.legal := by decide
  exact ⟨hparams, hwf, hbelow, hctrl, hrctl, rfl, hra, nofun, Nat.zero_le _, nofun, Nat.zero_le _, nofun⟩

/-! ## Every step -/

/-- The enabled step of any agent keeps the invariant. -/
theorem turnStep_keeps_legal {s t : State} {u : Turn} (h : s.Legal) (hen : turnEnabled s u = true)
    (hx : turnStep s u = .next t) : t.Legal := by
  obtain ⟨_, hen⟩ := (Bool.and_eq_true _ _).mp hen
  cases u with
  | host k => exact hostStep_keeps_legal h hx
  | txf => exact txfStep_keeps_legal h hen hx
  | txc => exact txcStep_keeps_legal h hx
  | wireRx p => exact wireRxStep_keeps_legal h hen hx
  | rxd => exact rxdStep_keeps_legal h hx
  | eep =>
    cases hx
    exact h.withEerd (pending := false) (done := true) nofun
  | rst => exact rstStep_keeps_legal h hx

/-- Settles O57: a step is an idle step, a turn of an agent not enabled, or an enabled agent's step, and each agent's
step keeps the invariant. -/
theorem stepKeepsLegal : Obligations.StepKeepsLegal := by
  intro s t h hstep
  obtain ⟨_, ⟨_, rfl⟩ | ⟨u, rest, _, ⟨_, rfl⟩ | ⟨hen, hx⟩⟩⟩ := step_cases hstep
  · exact h
  · exact h
  · exact turnStep_keeps_legal (s := { s with agenda := rest }) h hen hx

end Sys2Proof.Machine
end

section
/-! PROOFS. What no step changes: the parameters, the fault record, and the frames already on the link output. -/

namespace Sys2Proof.Machine

/-- R30, R90: the parameters and the fault record stay, and the link output keeps its frames; frames are added only
if `emits`. -/
def GrowsLink (emits : Prop) (s t : State) : Prop :=
  t.params = s.params ∧ t.faults = s.faults ∧ ∃ out, t.wireOut = s.wireOut ++ out ∧ (out ≠ [] → emits)

theorem growsLink_of_same {emits : Prop} {s t : State} (hparams : t.params = s.params) (hfaults : t.faults = s.faults)
    (hwire : t.wireOut = s.wireOut) : GrowsLink emits s t :=
  ⟨hparams, hfaults, [], by simp [hwire], absurd rfl⟩

theorem growsLink_refl {emits : Prop} (s : State) : GrowsLink emits s s := growsLink_of_same rfl rfl rfl

/-- R47: a host step sends nothing. -/
theorem hostStep_growsLink {emits : Prop} {k : Nat} {s t : State} (h : hostStep k s = .next t) :
    GrowsLink emits s t := by
  rcases hostStep_outcome h with (rfl | ⟨i, u, task, hexec, rfl⟩) | ⟨a, vs, d, task, _, rfl⟩
  · exact growsLink_refl t
  · obtain ⟨hparams, _, _, _, hwire, hfaults, _, _⟩ := exec_frame hexec
    exact growsLink_of_same hparams hfaults hwire
  · exact growsLink_of_same rfl rfl rfl

/-- R106: a fetch sends nothing. -/
theorem txfStep_growsLink {emits : Prop} {s t : State} (h : txfStep s = .next t) : GrowsLink emits s t := by
  obtain ⟨base, d, _, _, _, _, _, _, _, rfl⟩ := txfStep_eq_next h
  exact growsLink_of_same rfl rfl rfl

/-- R107: a completion sends one frame. -/
theorem txcStep_growsLink {emits : Prop} (he : emits) {s t : State} (h : txcStep s = .next t) :
    GrowsLink emits s t := by
  rcases txcStep_outcome h with ⟨_, rfl⟩ | ⟨e, rest, m, _, _, rfl⟩
  · exact growsLink_refl t
  · exact ⟨rfl, rfl, _, rfl, fun _ => he⟩

/-- R131: what the link delivers is not what it sends. -/
theorem wireRxStep_growsLink {emits : Prop} {p : Frame} {s t : State} (h : wireRxStep p s = .next t) :
    GrowsLink emits s t := by
  rcases wireRxStep_outcome h with rfl | ⟨_, _, rfl⟩
  · exact growsLink_refl t
  · simp only [wireRxAccept]
    split <;> exact growsLink_of_same rfl rfl rfl

/-- R132: a deposit or a drop sends nothing. -/
theorem rxdStep_growsLink {emits : Prop} {s t : State} (h : rxdStep s = .next t) : GrowsLink emits s t := by
  rcases rxdStep_outcome h with ⟨_, rfl⟩ | ⟨q, rest, b, _, _, ⟨_, rfl⟩ | ⟨_, base, ds, icr, _, _, rfl⟩⟩
  · exact growsLink_refl t
  · exact growsLink_of_same rfl rfl rfl
  · exact growsLink_of_same rfl rfl rfl

/-- R177: a reset may send frames that were in flight. -/
theorem rstStep_growsLink {emits : Prop} (he : emits) {s t : State} (h : rstStep s = .next t) :
    GrowsLink emits s t := by
  obtain ⟨out, k, rfl⟩ := rstStep_outcome h
  exact ⟨rfl, rfl, out, rfl, fun _ => he⟩

theorem turnStep_growsLink {s t : State} {u : Turn} (h : turnStep s u = .next t) :
    GrowsLink (u = .txc ∨ u = .rst) s t := by
  cases u with
  | host k => exact hostStep_growsLink h
  | txf => exact txfStep_growsLink h
  | txc => exact txcStep_growsLink (.inl rfl) h
  | wireRx p => exact wireRxStep_growsLink h
  | rxd => exact rxdStep_growsLink h
  | eep => cases h; exact growsLink_of_same rfl rfl rfl
  | rst => exact rstStep_growsLink (.inr rfl) h

/-- Settles O60: of the agents only TXC and RST send, and the turn a step takes is the first of the agenda. -/
theorem linkOutputOnlyGrows : Obligations.LinkOutputOnlyGrows := by
  intro s t hstep
  obtain ⟨_, ⟨_, rfl⟩ | ⟨u, rest, hagenda, ⟨_, rfl⟩ | ⟨_, hx⟩⟩⟩ := step_cases hstep
  · exact growsLink_refl _
  · exact growsLink_of_same rfl rfl rfl
  · obtain ⟨hparams, hfaults, out, hwire, hout⟩ := turnStep_growsLink hx
    exact ⟨hparams, hfaults, out, hwire, fun hne => ⟨u, rest, hagenda, hout hne⟩⟩

end Sys2Proof.Machine
end

section
/-! PROOFS. The hardware windows of the rings (R31, R32): which slots they hold, and what an advance of the head
takes out of them. -/

namespace Sys2Proof.Machine

/-- R10: the ring distance is the mathematical remainder. -/
theorem ringDist_cast (t h : Nat) {n : Nat} (hn : 0 < n) : (ringDist t h n : Int) = ((t : Int) - h) % n :=
  Int.toNat_of_nonneg (Int.emod_nonneg _ (by omega))

theorem RingRegs.owned_cast {r : RingRegs} (hn : 0 < r.slots) :
    (r.owned : Int) = ((r.tail.toNat : Int) - r.head.toNat) % r.slots := by
  rw [RingRegs.owned, if_neg (by omega), ringDist_cast _ _ hn]

/-- R31, R32: the slots of a window, the ring distance from head to tail many. -/
theorem RingRegs.mem_window {r : RingRegs} {u : Nat} :
    u ∈ r.window ↔ r.slots ≠ 0 ∧ ∃ j : Nat,
      (j : Int) < ((r.tail.toNat : Int) - r.head.toNat) % r.slots ∧ u = (r.head.toNat + j) % r.slots := by
  simp only [RingRegs.window, List.mem_map, List.mem_range]
  rcases Nat.eq_zero_or_pos r.slots with h0 | hn
  · simp [RingRegs.owned, h0]
  · simp only [← RingRegs.owned_cast hn, Nat.cast_lt, ne_eq, hn.ne', not_false_eq_true, true_and, eq_comm (a := u)]

/-- R26: a ring has fewer slots than an index of 16 bits can tell apart. -/
theorem RingRegs.slots_lt (r : RingRegs) : r.slots < 2 ^ 16 := by
  have := r.len.isLt
  unfold RingRegs.slots
  omega

/-- R147: where the head stands after an advance of `k` slots. -/
theorem RingRegs.advance_head {r : RingRegs} (k : Nat) (hn : 0 < r.slots) :
    (r.advance k).head.toNat = (r.head.toNat + k) % r.slots :=
  Nat.mod_eq_of_lt ((Nat.mod_lt _ hn).trans r.slots_lt)

@[simp] theorem RingRegs.advance_slots (r : RingRegs) (k : Nat) : (r.advance k).slots = r.slots := rfl
@[simp] theorem RingRegs.advance_tail (r : RingRegs) (k : Nat) : (r.advance k).tail = r.tail := rfl

/-- R31, R32: an advance over `k` slots of the window leaves `k` fewer in it. -/
theorem RingRegs.advance_owned {r : RingRegs} {k : Nat} (hn : 0 < r.slots) (hk : k ≤ r.owned) :
    (r.advance k).owned = r.owned - k := by
  have hlt : r.owned < r.slots := by
    rw [RingRegs.owned, if_neg (by omega)]
    exact ringDist_lt _ _ hn
  have hcast : ((r.advance k).owned : Int) = (r.owned : Int) - k := by
    calc ((r.advance k).owned : Int)
        = ((r.tail.toNat : Int) - ((r.head.toNat + k) % r.slots : Nat)) % r.slots := by
          rw [RingRegs.owned_cast (r := r.advance k) hn, RingRegs.advance_head k hn]; rfl
      _ = ((r.tail.toNat : Int) - r.head.toNat - k) % r.slots := by
          push_cast; rw [Int.sub_emod_emod, ← sub_sub]
      _ = ((r.owned : Int) - k) % r.slots := by rw [RingRegs.owned_cast hn, Int.emod_sub_emod]
      _ = (r.owned : Int) - k := Int.emod_eq_of_lt (by omega) (by omega)
  omega

/-- R132, R106: an advance takes the first `k` slots out of the window and leaves the rest of it as it was. -/
theorem RingRegs.window_eq_append_advance {r : RingRegs} {k : Nat} (hn : 0 < r.slots) (hk : k ≤ r.owned) :
    r.window = (List.range k).map (fun j => (r.head.toNat + j) % r.slots) ++ (r.advance k).window := by
  obtain ⟨m, hm⟩ := Nat.exists_eq_add_of_le hk
  have hrest : (r.advance k).owned = m := by rw [RingRegs.advance_owned hn hk]; omega
  simp only [RingRegs.window, hrest, hm, List.range_add, List.map_append, List.map_map,
    RingRegs.advance_head k hn, RingRegs.advance_slots, Function.comp_def, Nat.mod_add_mod, Nat.add_assoc]

/-- R132: an enabled RXD step that can deposit the oldest frame has a usable ring, with a free slot in the window
for each chunk. -/
theorem chunkCount_le_owned {s : State} {q : Frame} {rest : List Frame} {b : Nat} (hen : rxdEnabled s = true)
    (hq : s.rxFifo = q :: rest) (hb : s.regs.rctl.bufSize = some b)
    (hfits : chunkCount q.length b ≤ s.regs.rx.slots - 1) :
    0 < s.regs.rx.slots ∧ chunkCount q.length b ≤ s.regs.rx.owned := by
  simp only [rxdEnabled, hq, hb, RingRegs.usable, Bool.and_eq_true, Bool.or_eq_true, decide_eq_true_eq] at hen
  obtain ⟨⟨_, ⟨hpos, _⟩, _⟩, hroom⟩ := hen
  exact ⟨hpos, by omega⟩

/-- Settles O42: a deposit over `k` descriptors advances the head by `k`, inside the window. -/
theorem depositTakesSlotsOutOfWindow : Obligations.DepositTakesSlotsOutOfWindow := by
  intro s t n b k q rest hn hen hq hb hk hfits hx
  subst hn hk
  obtain ⟨_, hen⟩ := (Bool.and_eq_true _ _).mp hen
  obtain ⟨hpos, howned⟩ := chunkCount_le_owned hen hq hb hfits
  rw [RingRegs.window_eq_append_advance hpos howned]
  obtain ⟨hnone, _⟩ | ⟨q', rest', b', hq', hb', hdep⟩ := rxdStep_outcome hx
  · exact absurd hb (hnone q rest b hq)
  · obtain ⟨rfl, rfl⟩ : q = q' ∧ rest = rest' := List.cons.inj (hq.symm.trans hq')
    obtain rfl : b = b' := Option.some.inj (hb.symm.trans hb')
    obtain ⟨hover, _⟩ | ⟨_, base, ds, icr, _, _, rfl⟩ := hdep
    · exact absurd hfits (Nat.not_le.mpr hover)
    · rfl

end Sys2Proof.Machine
end

section
/-! PROOFS. Hardware-owned bytes (R31, R32) and the slot states (R33). -/

namespace Sys2Proof.Machine

/-! ## Descriptors as they stand in memory (R61, R64) -/

/-- R41: `n` bytes hold a number below `256 ^ n`. -/
theorem leNat_lt (bs : List Byte) : leNat bs < 256 ^ bs.length := by
  induction bs with
  | nil => decide
  | cons b bs ih =>
    have hb := b.isLt
    rw [leNat, List.length_cons, Nat.pow_succ]
    omega

theorem Memory.readLE_lt (m : Memory) (a n : Nat) : Memory.readLE m a n < 256 ^ n := by
  simpa [Memory.readLE] using leNat_lt (Memory.readBytes m a n)

@[simp] theorem readTxDesc_addr_toNat (m : Memory) (da : Nat) :
    (readTxDesc m da).addr.toNat = Memory.readLE m da 8 :=
  Nat.mod_eq_of_lt (Memory.readLE_lt m da 8)

@[simp] theorem readTxDesc_len_toNat (m : Memory) (da : Nat) :
    (readTxDesc m da).len.toNat = Memory.readLE m (da + 8) 2 :=
  Nat.mod_eq_of_lt (Memory.readLE_lt m (da + 8) 2)

@[simp] theorem readRxDesc_addr_toNat (m : Memory) (da : Nat) :
    (readRxDesc m da).addr.toNat = Memory.readLE m da 8 :=
  Nat.mod_eq_of_lt (Memory.readLE_lt m da 8)

/-! ## The owner functions -/

theorem inBytes_iff {x lo n : Nat} : inBytes x lo n = true ↔ lo ≤ x ∧ x < lo + n := by
  simp [inBytes]

theorem find?_ne_none_iff {α : Type} {p : α → Bool} {xs : List α} :
    xs.find? p ≠ none ↔ ∃ u ∈ xs, p u = true := by
  rw [Option.ne_none_iff_isSome, List.find?_isSome]

/-- R31, R32: a byte lies in a descriptor of one of the slots. -/
theorem descOwner_ne_none {b x : Nat} {slots : List Nat} :
    descOwner (some b) slots x ≠ none ↔ ∃ u ∈ slots, b + 16 * u ≤ x ∧ x < b + 16 * u + 16 := by
  simp only [descOwner, find?_ne_none_iff, inBytes_iff, descAddr]

/-- R31: a slot is owned on the TX side when it is in the window or in flight. -/
theorem mem_txOwnedSlots {s : State} {u : Nat} :
    u ∈ txOwnedSlots s ↔ u ∈ s.regs.tx.window ∨ ∃ e ∈ s.txInflight, e.slot.toNat = u := by
  simp only [txOwnedSlots, List.mem_append, List.mem_map]

/-- R31: a byte lies in the buffer that the descriptor of a slot of TXW names now. -/
theorem txBufferOwner_ne_none {s : State} {b x : Nat} (hb : s.regs.tx.base = some b) :
    txBufferOwner s x ≠ none ↔ ∃ u ∈ s.regs.tx.window, Memory.readLE s.mem (b + 16 * u) 8 ≤ x ∧
      x < Memory.readLE s.mem (b + 16 * u) 8 + Memory.readLE s.mem (b + 16 * u + 8) 2 := by
  simp only [txBufferOwner, hb, find?_ne_none_iff, inBytes_iff, descAddr, readTxDesc_addr_toNat,
    readTxDesc_len_toNat]

/-- R31: a byte lies in the buffer of an entry in flight. -/
theorem inflightOwner_ne_none {s : State} {x : Nat} :
    inflightOwner s x ≠ none ↔
      ∃ e ∈ s.txInflight, e.baddr.toNat ≤ x ∧ x < e.baddr.toNat + e.frame.length := by
  simp only [inflightOwner, ne_eq, Option.map_eq_none_iff]
  simp only [← ne_eq, find?_ne_none_iff, inBytes_iff]

/-- R32: a byte lies within the buffer size of the address in the descriptor of a slot of RXW. -/
theorem rxBufferOwner_ne_none {s : State} {b n x : Nat} (hb : s.regs.rx.base = some b)
    (hn : s.regs.rctl.bufSize = some n) :
    rxBufferOwner s x ≠ none ↔ ∃ u ∈ s.regs.rx.window, Memory.readLE s.mem (b + 16 * u) 8 ≤ x ∧
      x < Memory.readLE s.mem (b + 16 * u) 8 + n := by
  simp only [rxBufferOwner, hb, hn, find?_ne_none_iff, inBytes_iff, descAddr, readRxDesc_addr_toNat]

theorem orElse_ne_none_iff {α : Type} {a b : Option α} :
    (a.orElse fun _ => b) ≠ none ↔ a ≠ none ∨ b ≠ none := by
  cases a <;> simp

/-- R48: a byte is hardware-owned when one of the five kinds of owner has it. -/
theorem hwOwner_ne_none {s : State} {x : Nat} :
    hwOwner s x ≠ none ↔
      (descOwner s.regs.tx.base (txOwnedSlots s) x ≠ none ∨ txBufferOwner s x ≠ none ∨ inflightOwner s x ≠ none) ∨
      (descOwner s.regs.rx.base s.regs.rx.window x ≠ none ∨ rxBufferOwner s x ≠ none) := by
  simp only [hwOwner, orElse_ne_none_iff, or_assoc]

/-- Settles O45: `tw` and `rw` are the two windows; each owner function then finds what its rule names. -/
theorem hardwareOwnedBytes : Obligations.HardwareOwnedBytes := by
  intro s tw rw x htw hrw
  have htw (u : Nat) : tw u ↔ u ∈ s.regs.tx.window := (htw u).trans RingRegs.mem_window.symm
  have hrw (u : Nat) : rw u ↔ u ∈ s.regs.rx.window := (hrw u).trans RingRegs.mem_window.symm
  simp only [htw, hrw, ← mem_txOwnedSlots]
  refine ⟨fun tb htb => ⟨?_, txBufferOwner_ne_none htb⟩, inflightOwner_ne_none, fun rb hrb => ?_,
    fun rb b hrb hb => rxBufferOwner_ne_none hrb hb, hwOwner_ne_none⟩
  · rw [htb]
    exact descOwner_ne_none
  · rw [hrb]
    exact descOwner_ne_none

/-! ## Slot states (R33) -/

/-- R33: with the ring base defined a slot's DD bit is bit 0 of byte 12 of its descriptor. -/
theorem slotDone_eq {s : State} {r : RingRegs} {b : Nat} (hb : r.base = some b) (slot : Nat) :
    slotDone s r slot = some ((Memory.read s.mem (b + 16 * slot + 12)).getLsbD 0) := by
  simp only [slotDone, hb, Option.map_some, ddBit, descAddr]

theorem txSlotState_of_owned {s : State} {slot : Nat} (h : slot ∈ txOwnedSlots s) :
    txSlotState s slot = some .armed := by
  rw [txSlotState, if_pos (List.contains_iff_mem.mpr h)]

theorem txSlotState_of_not_owned {s : State} {slot b : Nat} (h : slot ∉ txOwnedSlots s)
    (hb : s.regs.tx.base = some b) :
    txSlotState s slot =
      some (if (Memory.read s.mem (b + 16 * slot + 12)).getLsbD 0 then .free else .armed) := by
  rw [txSlotState, if_neg (by simpa using h), slotDone_eq hb, Option.map_some]

/-- R33: the state of an RX slot, from whether it is in RXW and its DD bit. -/
theorem rxSlotState_iff {s : State} {slot b : Nat} (hb : s.regs.rx.base = some b) :
    (rxSlotState s slot = some .posted ↔
      slot ∈ s.regs.rx.window ∧ (Memory.read s.mem (b + 16 * slot + 12)).getLsbD 0 = false) ∧
    (rxSlotState s slot = some .filled ↔
      slot ∉ s.regs.rx.window ∧ (Memory.read s.mem (b + 16 * slot + 12)).getLsbD 0 = true) := by
  rw [rxSlotState, slotDone_eq hb, Option.map_some, ← List.contains_iff_mem]
  cases s.regs.rx.window.contains slot <;>
    cases (Memory.read s.mem (b + 16 * slot + 12)).getLsbD 0 <;> decide

/-- Settles O46: by whether the slot is hardware-owned, then by its DD bit. -/
theorem slotStatesFollowOwnershipAndDone : Obligations.SlotStatesFollowOwnershipAndDone := by
  intro s slot b
  refine ⟨txSlotState_of_owned, fun hb => ?_, rxSlotState_iff⟩
  by_cases h : slot ∈ txOwnedSlots s
  · simp [txSlotState_of_owned h, h]
  · rw [txSlotState_of_not_owned h hb]
    cases (Memory.read s.mem (b + 16 * slot + 12)).getLsbD 0 <;> simp [h]

end Sys2Proof.Machine
end

section
/-! PROOFS. What a read of host memory sees after a write (R41, R43). -/

namespace Sys2Proof.Machine

/-- R43: every byte after a byte write. -/
theorem Memory.read_write {m : Memory} (h : Memory.wf m = true) (a b : Nat) (v : Byte) :
    Memory.read (Memory.write m a v) b = if b = a then v else Memory.read m b := by
  split
  · next heq => rw [heq, Memory.read_write_same h]
  · next hne => exact Memory.read_write_other m v (Ne.symm hne)

/-- R12: a part of a written range read back is the corresponding part of the bytes written. -/
theorem Memory.readBytes_writeBytes {m : Memory} (h : Memory.wf m = true) {a c n : Nat} {vs : List Byte}
    (hlo : a ≤ c) (hhi : c + n ≤ a + vs.length) :
    Memory.readBytes (Memory.writeBytes m a vs) c n = (vs.drop (c - a)).take n := by
  obtain ⟨o, rfl⟩ := Nat.exists_eq_add_of_le hlo
  refine List.ext_getElem (by simp; omega) fun j hj _ => ?_
  have hin : o + j < vs.length := by rw [Memory.readBytes_length] at hj; omega
  rw [Memory.readBytes_get, Nat.add_assoc, Memory.read_writeBytes_inside h a vs hin]
  simp

/-- Settles O50: byte by byte, inside the written range and outside it. -/
theorem readAfterWriteSeesTheBytes : Obligations.ReadAfterWriteSeesTheBytes :=
  fun m a _ _ vs h => ⟨Memory.readBytes_writeBytes h, fun _ => Memory.read_writeBytes_outside m a vs⟩

/-! ## Hardware-owned bytes (R48) -/

/-- R158: a store of bytes of which none is hardware-owned leaves the hardware-owned ones alone. -/
theorem Storable.read_writeBytes_owned {s : State} {a x : Nat} {vs : List Byte} (h : Storable s a vs)
    (hx : hwOwner s x ≠ none) : Memory.read (Memory.writeBytes s.mem a vs) x = Memory.read s.mem x := by
  obtain ⟨_, hfree⟩ := h
  refine Memory.read_writeBytes_outside s.mem a vs ?_
  by_contra hin
  exact hx (hfree x (by omega) (by omega))

/-- Settles O51: only a store writes memory, and it writes no hardware-owned byte. -/
theorem hostNeverWritesOwnedBytes : Obligations.HostNeverWritesOwnedBytes := by
  intro s t k x hstep hx
  rcases hostStep_outcome hstep with (rfl | ⟨i, u, task, hexec, rfl⟩) | ⟨a, vs, d, task, hstore, rfl⟩
  · rfl
  · obtain ⟨_, hmem, _⟩ := exec_frame hexec
    rw [setTask_mem, hmem]
  · exact hstore.read_writeBytes_owned hx

end Sys2Proof.Machine
end

section
/-! PROOFS. The frame of a CSR transaction (R47, R70, R71). -/

namespace Sys2Proof.Machine

/-! ## Reads (R70) -/

theorem regs_of_readCells {s t : State} {o : Nat} {c : RegCell 32} {x : Word} (h : readCells s o c x = .next t) :
    t.regs = s.regs := by
  obtain ⟨v, _, rfl⟩ := readCells_eq_next.1 h
  rfl

theorem regs_of_readCell {s t : State} {o : Nat} {c : RegCell 32} (h : readCell s o c = .next t) :
    t.regs = s.regs := by
  obtain ⟨v, _, rfl⟩ := readCell_eq_next.1 h
  rfl

/-- R70, R77: only a read of ICR has a side effect on a register. -/
theorem exec_read_regs {i : Instr} {s t : State} (hi : i.data = none) (hicr : i ≠ .csrrIcr)
    (h : exec i s = .next t) : t.regs = s.regs := by
  cases i with
  | csrrCtrl | csrrTctl | csrrTipg | csrrRdbal | csrrTdbal | csrrRah _ => exact regs_of_readCells h
  | csrrRdbah | csrrTdbah | csrrRal _ | csrrMta _ => exact regs_of_readCell h
  | csrrStatus | csrrEecd | csrrEerd | csrrIms | csrrRctl | csrrRdlen | csrrRdh | csrrRdt | csrrTdlen | csrrTdh
  | csrrTdt => cases h; rfl
  | csrrIcr => exact absurd rfl hicr
  | csrrIcs | csrrImc => cases h
  | _ => cases hi

/-! ## Writes (R71) -/

/-- Two guards and a rule after them. -/
theorem guards_eq_next {c d : Prop} [Decidable c] [Decidable d] {f g : Fault} {u t : State} :
    (if c then .fault f else if d then .fault g else .next u : Result) = .next t ↔ ¬c ∧ ¬d ∧ t = u := by
  by_cases hc : c
  · simp [hc]
  · rw [if_neg hc, guard_eq_next]
    exact (and_iff_right hc).symm

/-- What a CSR write of register `r` may change: the registers, and by CTRL the reset, by EERD the pending read. -/
def WriteOutcome (r : Reg) (s t : State) : Prop :=
  ∃ (regs : Csrs) (reset pending : Bool) (addr : BitVec 8),
    t = { s with regs := regs, inReset := reset, eerdPending := pending, eerdReqAddr := addr } ∧
    (r ≠ .ctrl → reset = s.inReset) ∧ (r ≠ .eerd → pending = s.eerdPending ∧ addr = s.eerdReqAddr)

theorem writeOutcome_of_regs {r : Reg} (s : State) (regs : Csrs) : WriteOutcome r s { s with regs := regs } :=
  ⟨regs, _, _, _, rfl, fun _ => rfl, fun _ => ⟨rfl, rfl⟩⟩

/-- R71: a write that goes on returns no value, makes no draw, and reaches past the stored registers only in CTRL
and EERD. -/
theorem exec_write_outcome {i : Instr} {s t : State} (hi : i.data ≠ none) (h : exec i s = .next t) :
    WriteOutcome i.reg s t := by
  cases i with
  | csrwCtrl v =>
    obtain ⟨_, rfl⟩ := guard_eq_next.1 h
    exact ⟨_, _, _, _, rfl, fun hctrl => absurd rfl hctrl, fun _ => ⟨rfl, rfl⟩⟩
  | csrwEerd v =>
    simp only [exec, execCsrwEerd] at h
    split at h <;> cases h
    · exact ⟨_, _, _, _, rfl, fun _ => rfl, fun heerd => absurd rfl heerd⟩
    · exact writeOutcome_of_regs s _
  | csrwStatus | csrwEecd | csrwIcr | csrwIcs | csrwIms | csrwImc | csrwTipg | csrwRal | csrwMta =>
    cases h
    exact writeOutcome_of_regs _ _
  | csrwTctl | csrwRah | csrwTdbal | csrwTdbah | csrwTdlen | csrwRdbal | csrwRdbah | csrwRdlen =>
    obtain ⟨_, rfl⟩ := guard_eq_next.1 h
    exact writeOutcome_of_regs s _
  | csrwRctl | csrwTdh | csrwRdh =>
    obtain ⟨_, _, rfl⟩ := guards_eq_next.1 h
    exact writeOutcome_of_regs s _
  | csrwTdt =>
    simp only [exec, execCsrwTdt] at h
    split at h <;> cases h
    exact writeOutcome_of_regs s _
  | csrwRdt =>
    simp only [exec, execCsrwRdt] at h
    split at h <;> cases h
    exact writeOutcome_of_regs s _
  | _ => exact absurd rfl hi

/-- Settles O7: the common frame, then what a read and what a write may change. -/
theorem transactionsTouchOnlyRegisters : Obligations.TransactionsTouchOnlyRegisters := by
  intro i s t h
  obtain ⟨hparams, hmem, hinflight, hfifo, hwire, hfaults, htasks, hagenda⟩ := exec_frame h
  refine ⟨hparams, hmem, hinflight, hfifo, hwire, hfaults, htasks, hagenda, ?_⟩
  by_cases hi : i.data = none
  · have hregs (hicr : i ≠ .csrrIcr) : t.regs = s.regs := exec_read_regs hi hicr h
    obtain ⟨v, k, c, rfl⟩ := exec_read_outcome hi h
    exact ⟨fun _ => ⟨rfl, rfl, rfl, rfl, hregs⟩, absurd hi, fun _ => rfl, fun _ => ⟨rfl, rfl⟩⟩
  · obtain ⟨regs, reset, pending, addr, rfl, hreset, heerd⟩ := exec_write_outcome hi h
    exact ⟨fun hnone => absurd hnone hi, fun _ => ⟨rfl, rfl⟩, hreset, heerd⟩

end Sys2Proof.Machine
end

section
/-! PROOFS. Misaligned host accesses (R44), one byte a step. -/

namespace Sys2Proof.Machine

/-! ## The bytes of a store (R158) -/

/-- R41: byte `j` of a number, least significant first. -/
theorem bytesOfNat_getD {n j : Nat} (v : Nat) (hj : j < n) :
    (bytesOfNat n v).getD j 0#8 = BitVec.ofNat 8 (v / 256 ^ j) := by
  induction n generalizing v j with
  | zero => omega
  | succ n ih =>
    cases j with
    | zero => simp [bytesOfNat]
    | succ j => rw [bytesOfNat, List.getD_cons_succ, ih _ (by omega), Nat.div_div_eq_div_mul, Nat.pow_succ']

/-- A byte depends on a number modulo 256 only. -/
theorem ofInt_add_mul_256 (a b : Int) : BitVec.ofInt 8 (a + 256 * b) = BitVec.ofInt 8 a := by
  apply BitVec.eq_of_toInt_eq
  rw [BitVec.toInt_ofInt, BitVec.toInt_ofInt]
  exact Int.add_mul_bmod_self_left a 256 b

/-- A quotient by `p`, split at a multiple `p * q` of the divisor. -/
theorem ediv_eq_emod_mul_ediv_add (v q : Int) {p : Int} (hp : p ≠ 0) :
    v / p = v % (p * q) / p + q * (v / (p * q)) := by
  rw [← Int.add_mul_ediv_left _ _ hp, ← mul_assoc, Int.emod_add_mul_ediv]

/-- Cutting a number to `n` bytes leaves each byte below them: at byte `j` the part cut off is a multiple of 256. -/
theorem ofInt_emod_ediv (v : Int) {n j : Nat} (hj : j < n) :
    BitVec.ofInt 8 (v % 2 ^ (8 * n) / 2 ^ (8 * j)) = BitVec.ofInt 8 (v / 2 ^ (8 * j)) := by
  obtain ⟨k, rfl⟩ := Nat.exists_eq_add_of_lt hj
  have hpow : (2 : Int) ^ (8 * (j + k + 1)) = 2 ^ (8 * j) * (256 * 2 ^ (8 * k)) := by ring
  conv_rhs =>
    rw [ediv_eq_emod_mul_ediv_add v (256 * 2 ^ (8 * k)) (by positivity), ← hpow, mul_assoc, ofInt_add_mul_256]

/-- R158: byte `j` of the value a store writes. -/
theorem storeBytes_getD {n j : Nat} (v : Int) (hj : j < n) :
    (storeBytes n v).getD j 0#8 = BitVec.ofInt 8 (v / 2 ^ (8 * j)) := by
  have hnonneg : 0 ≤ v % 2 ^ (8 * n) := Int.emod_nonneg v (by positivity)
  have hpow : ((256 ^ j : Nat) : Int) = 2 ^ (8 * j) := by rw [pow_mul]; norm_cast
  rw [storeBytes, bytesOfNat_getD _ hj, ← BitVec.ofInt_natCast, Int.natCast_ediv, Int.toNat_of_nonneg hnonneg, hpow,
    ofInt_emod_ediv v hj]

/-! ## One step of a misaligned access -/

/-- R49: a load's byte is memory's unless it is a hardware-owned RX buffer byte. -/
theorem loadByte_of_not_owned {s : State} {x : Nat} (h : rxBufferOwner s x = none) :
    loadByte s x = (Memory.read s.mem x, s) := by
  simp [loadByte, h]

/-- A running task's step is its next form. -/
theorem hostStep_eq_hostForm {s : State} {k : Nat} {t : Task} {f : Form} (ht : s.tasks[k]? = some t)
    (hf : t.nextForm = some f) : hostStep k s = hostForm k t s f := by
  simp only [hostStep, ht, hf]

section
variable {s : State} {k x : Nat} {t : Task} {w : Width} {a : Expr} (hx : evalExpr t.temps a = (x : Int))
  (hmis : x % widthBytes w ≠ 0) (hin : x + t.moved.length < s.params.memBytes)
include hx hmis hin

/-- R44, R48: a byte of a misaligned store that is hardware-owned faults. -/
theorem hostStore_misaligned_owned {e : Expr} {slot : Nat} (hown : hwOwner s (x + t.moved.length) = some slot) :
    hostStore k t w a e s = .fault (.ownershipViolation (x + t.moved.length) slot) := by
  simp [hostStore, hx, hmis, hown, Nat.not_le.mpr hin]

/-- R44: a misaligned store writes its next byte, and with the last one its form is done. -/
theorem hostStore_misaligned {e : Expr} (hlt : t.moved.length < widthBytes w)
    (hown : hwOwner s (x + t.moved.length) = none) :
    let b := BitVec.ofInt 8 (evalExpr t.temps e / 2 ^ (8 * t.moved.length))
    hostStore k t w a e s =
      .next (({ s with mem := Memory.write s.mem (x + t.moved.length) b } : State).setTask k
        (if widthBytes w ≤ t.moved.length + 1 then t.advance else { t with moved := t.moved ++ [b] })) := by
  by_cases hlast : widthBytes w ≤ t.moved.length + 1 <;>
    simp [hostStore, hx, hmis, hown, Nat.not_le.mpr hin, hlast, ← storeBytes_getD _ hlt]

/-- R44: a misaligned load takes its next byte, and with the last one its form is done. -/
theorem hostLoad_misaligned {d : Nat} :
    let p := loadByte s (x + t.moved.length)
    hostLoad k t w d a s =
      .next (p.2.setTask k
        (if widthBytes w ≤ t.moved.length + 1 then (t.assign d (leNat (t.moved ++ [p.1]))).advance
          else { t with moved := t.moved ++ [p.1] })) := by
  by_cases hlast : widthBytes w ≤ t.moved.length + 1 <;>
    simp [hostLoad, hx, hmis, Nat.not_le.mpr hin, hlast]

end

/-- Settles O49: the step is the access's next byte; it is the last one or not. -/
theorem misalignedAccessMovesOneByte : Obligations.MisalignedAccessMovesOneByte := by
  intro s k x n j d t w a e ht hx hn hmis hj hlt hin hwf
  obtain rfl : n = widthBytes w := hn.trans (by cases w <;> rfl)
  subst hj
  refine ⟨fun hf hown => ?_, fun hf hown => ?_, fun hf => ?_⟩
  · refine ⟨_, _, (hostStep_eq_hostForm ht hf).trans (hostStore_misaligned hx hmis hin hlt hown), fun hmid => ?_,
      fun hlast => if_pos hlast.ge, fun y => Memory.read_write hwf _ y _⟩
    rw [if_neg (by omega)]
    exact ⟨rfl, by simp, rfl, rfl, rfl⟩
  · obtain ⟨slot, hslot⟩ := Option.ne_none_iff_exists'.mp hown
    exact ⟨slot, (hostStep_eq_hostForm ht hf).trans (hostStore_misaligned_owned hx hmis hin hslot)⟩
  · have hstep := (hostStep_eq_hostForm ht hf).trans (hostLoad_misaligned (d := d) hx hmis hin)
    obtain ⟨k', hk'⟩ := loadByte_state s (x + t.moved.length)
    refine ⟨_, k', fun hown => congrArg Prod.fst (loadByte_of_not_owned hown), fun hmid => ?_, fun hlast => ?_⟩
    · rw [hstep, hk', if_neg (by omega)]
    · rw [hstep, hk', if_pos hlast.ge]

end Sys2Proof.Machine
end

section
/-! PROOFS. The decoder and the encoder agree (R56 to R58): what decodes has its own key and data, and the image of
a transaction is read back word by word. -/

namespace Sys2Proof.Laws

/-! ## Words and bytes (log entry 7) -/

theorem getLsbD_wordOfBytes (b0 b1 b2 b3 : Byte) (i : Nat) :
    (wordOfBytes b0 b1 b2 b3).getLsbD i =
      if i < 8 then b0.getLsbD i
      else if i < 16 then b1.getLsbD (i - 8)
      else if i < 24 then b2.getLsbD (i - 16)
      else b3.getLsbD (i - 24) := by
  simp only [wordOfBytes, BitVec.getLsbD_append]
  grind

theorem wordOfBytes_bytesOfWord (w : Word) :
    wordOfBytes (w.extractLsb' 0 8) (w.extractLsb' 8 8) (w.extractLsb' 16 8) (w.extractLsb' 24 8) = w := by
  apply BitVec.eq_of_getLsbD_eq
  intro i hi
  simp only [getLsbD_wordOfBytes, BitVec.getLsbD_extractLsb']
  split_ifs <;> grind

theorem bytesOfWord_wordOfBytes (b0 b1 b2 b3 : Byte) : bytesOfWord (wordOfBytes b0 b1 b2 b3) = [b0, b1, b2, b3] := by
  have hbyte {b : Byte} {n : Nat} (hb : ∀ i < 8, (wordOfBytes b0 b1 b2 b3).getLsbD (n + i) = b.getLsbD i) :
      (wordOfBytes b0 b1 b2 b3).extractLsb' n 8 = b := by
    apply BitVec.eq_of_getLsbD_eq
    intro i hi
    simp [hb i hi, hi]
  simp only [bytesOfWord, List.cons.injEq, and_true]
  refine ⟨hbyte ?_, hbyte ?_, hbyte ?_, hbyte ?_⟩ <;> grind [getLsbD_wordOfBytes]

/-! ## Keys and key words (R56) -/

/-- R56: the 18 key bits of a key word. -/
@[simp] theorem keyBits_setWidth (key : BitVec 18) : (key.setWidth 32).extractLsb' 0 18 = key := by
  apply BitVec.eq_of_getLsbD_eq
  intro i hi
  simp [hi, hi.trans (show 18 < 32 by decide)]

@[simp] theorem highBits_setWidth (key : BitVec 18) : (key.setWidth 32).extractLsb' 18 14 = 0#14 := by
  apply BitVec.eq_of_getLsbD_eq
  intro i _
  simp

@[simp] theorem lowBits_setWidth (key : BitVec 18) : (key.setWidth 32).extractLsb' 0 2 = key.extractLsb' 0 2 := by
  apply BitVec.eq_of_getLsbD_eq
  intro i hi
  simp [hi, hi.trans (show 2 < 32 by decide)]

/-- R56: a key word without a bit above bit 17 is its key. -/
theorem setWidth_keyBits {w : Word} (h : w.extractLsb' 18 14 = 0#14) : (w.extractLsb' 0 18).setWidth 32 = w := by
  have hhigh := congrArg BitVec.toNat h
  apply BitVec.eq_of_toNat_eq
  simp [BitVec.extractLsb'_toNat, Nat.shiftRight_eq_div_pow] at hhigh ⊢
  omega

/-! ## The direction bit (R56) -/

/-- R58: every offset lies in the register window. -/
theorem reg_offset_lt (r : Reg) : r.offset < 0x20000 := by
  cases r with
  | mta i => have := i.isLt; simp only [Reg.offset]; omega
  | ral n | rah n => have := n.isLt; simp only [Reg.offset]; omega
  | _ => decide

/-- R56: bit 17 of a key is the direction. -/
theorem keyWrites_ofNat {n : Nat} (hn : n < 0x20000) (write : Bool) :
    keyWrites (BitVec.ofNat 18 (n + if write then 0x20000 else 0)) = write := by
  rw [keyWrites, BitVec.getLsbD_ofNat, Nat.testBit_eq_decide_div_mod_eq]
  cases write <;> simp <;> omega

theorem key_eq_offset_add_direction (i : Instr) :
    i.key = BitVec.ofNat 18 (i.reg.offset + if i.data.isSome then 0x20000 else 0) := by
  rw [Instr.key]
  cases i.data <;> rfl

/-- R58: the key of an instruction is a write's exactly when the instruction carries a value. -/
theorem keyWrites_key (i : Instr) : keyWrites i.key = i.data.isSome := by
  rw [key_eq_offset_add_direction, keyWrites_ofNat (reg_offset_lt _)]

/-! ## Every row builds the instruction of the key it matches (R57) -/

/-- An instruction built from a key and a data word has that key, and if it is a write that data. -/
def BuiltFrom (key : BitVec 18) (data : Word) (i : Instr) : Prop := i.key = key ∧ i.data.getD data = data

/-- The compared bits and the index field determine a key when together they are all its bits. -/
theorem key_ext {lo n : Nat} {mask a b : BitVec 18}
    (hall : ∀ j < 18, mask.getLsbD j = true ∨ lo ≤ j ∧ j < lo + n)
    (hmask : a &&& mask = b &&& mask) (hindex : a.extractLsb' lo n = b.extractLsb' lo n) : a = b := by
  apply BitVec.eq_of_getLsbD_eq
  intro j hj
  rcases hall j hj with hm | ⟨hlo, hhi⟩
  · simpa [hm] using congrArg (fun k => k.getLsbD j) hmask
  · have hbit := congrArg (fun k => k.getLsbD (j - lo)) hindex
    simp only [BitVec.getLsbD_extractLsb', Nat.add_sub_cancel' hlo] at hbit
    simpa [show j - lo < n by omega] using hbit

/-- R57: the key with a given MTA index that matches an MTA row is unique. -/
theorem mta_key_unique {a b pattern : BitVec 18}
    (ha : KeyRoundTrip.KeyFits a pattern 0x3FE03#18 mtaIndex (mtaIndex b))
    (hb : b &&& 0x3FE03#18 = pattern) : a = b :=
  key_ext (by decide) (ha.2.1.trans hb.symm) ha.2.2

/-- R57: the key with a given RAL or RAH index that matches a row of that array is unique. -/
theorem ra_key_unique {a b pattern : BitVec 18}
    (ha : KeyRoundTrip.KeyFits a pattern 0x3FF87#18 raIndex (raIndex b))
    (hb : b &&& 0x3FF87#18 = pattern) : a = b :=
  key_ext (by decide) (ha.2.1.trans hb.symm) ha.2.2

/-- R57, R58: the row of a single register compares every bit of a key, and its pattern is the register's key. -/
theorem fixedRow_key : ∀ r ∈ deviceRows ++ receiveRows ++ transmitRows,
    r.mask = BitVec.allOnes 18 ∧ (r.build r.pattern 0#32).key = r.pattern := by
  decide

/-- R56: the data word of a single register's row is the value of a write, and no part of the key. -/
theorem fixedRow_data {r : Row} (hr : r ∈ deviceRows ++ receiveRows ++ transmitRows) (key : BitVec 18) (d : Word) :
    (r.build key d).key = (r.build key 0#32).key ∧ (r.build key d).data.getD d = d := by
  fin_cases hr <;> exact ⟨rfl, rfl⟩

theorem builtFrom_of_fixedRow {r : Row} (hr : r ∈ deviceRows ++ receiveRows ++ transmitRows) {key : BitVec 18}
    (hk : key &&& r.mask = r.pattern) (d : Word) : BuiltFrom key d (r.build key d) := by
  obtain ⟨hmask, hpattern⟩ := fixedRow_key r hr
  obtain ⟨hkey, hdata⟩ := fixedRow_data hr key d
  rw [hmask, BitVec.and_allOnes] at hk
  rw [← hk] at hpattern
  exact ⟨hkey.trans hpattern, hdata⟩

theorem builtFrom_of_arrayRow {r : Row} (hr : r ∈ arrayRows) {key : BitVec 18}
    (hk : key &&& r.mask = r.pattern) (d : Word) : BuiltFrom key d (r.build key d) := by
  simp only [arrayRows, List.mem_cons, List.not_mem_nil, or_false] at hr
  rcases hr with rfl | rfl | rfl | rfl | rfl | rfl
  · exact ⟨mta_key_unique (KeyRoundTrip.mta_read_key _) hk, rfl⟩
  · exact ⟨mta_key_unique (KeyRoundTrip.mta_write_key _) hk, rfl⟩
  · exact ⟨ra_key_unique (KeyRoundTrip.ral_read_key _) hk, rfl⟩
  · exact ⟨ra_key_unique (KeyRoundTrip.ral_write_key _) hk, rfl⟩
  · exact ⟨ra_key_unique (KeyRoundTrip.rah_read_key _) hk, rfl⟩
  · exact ⟨ra_key_unique (KeyRoundTrip.rah_write_key _) hk, rfl⟩

/-- R57, R58: the instruction a key decodes to has that key. -/
theorem builtFrom_of_decodeKey {key : BitVec 18} {d : Word} {i : Instr} (h : decodeKey key d = some i) :
    BuiltFrom key d i := by
  obtain ⟨r, hfind, rfl⟩ := Option.map_eq_some_iff.1 h
  obtain ⟨hr, hk⟩ := findRow_some hfind
  rcases List.mem_append.1 hr with hfixed | harray
  · exact builtFrom_of_fixedRow hfixed hk d
  · exact builtFrom_of_arrayRow harray hk d

/-! ## Every instruction's key decodes to it (R57, R58) -/

theorem keyRoundTrip (i : Instr) : KeyRoundTrip.Statement i := by
  cases i with
  | csrrCtrl => exact KeyRoundTrip.csrrCtrl
  | csrwCtrl v => exact KeyRoundTrip.csrwCtrl v
  | csrrStatus => exact KeyRoundTrip.csrrStatus
  | csrwStatus v => exact KeyRoundTrip.csrwStatus v
  | csrrEecd => exact KeyRoundTrip.csrrEecd
  | csrwEecd v => exact KeyRoundTrip.csrwEecd v
  | csrrEerd => exact KeyRoundTrip.csrrEerd
  | csrwEerd v => exact KeyRoundTrip.csrwEerd v
  | csrrIcr => exact KeyRoundTrip.csrrIcr
  | csrwIcr v => exact KeyRoundTrip.csrwIcr v
  | csrrIcs => exact KeyRoundTrip.csrrIcs
  | csrwIcs v => exact KeyRoundTrip.csrwIcs v
  | csrrIms => exact KeyRoundTrip.csrrIms
  | csrwIms v => exact KeyRoundTrip.csrwIms v
  | csrrImc => exact KeyRoundTrip.csrrImc
  | csrwImc v => exact KeyRoundTrip.csrwImc v
  | csrrRctl => exact KeyRoundTrip.csrrRctl
  | csrwRctl v => exact KeyRoundTrip.csrwRctl v
  | csrrTctl => exact KeyRoundTrip.csrrTctl
  | csrwTctl v => exact KeyRoundTrip.csrwTctl v
  | csrrTipg => exact KeyRoundTrip.csrrTipg
  | csrwTipg v => exact KeyRoundTrip.csrwTipg v
  | csrrRdbal => exact KeyRoundTrip.csrrRdbal
  | csrwRdbal v => exact KeyRoundTrip.csrwRdbal v
  | csrrRdbah => exact KeyRoundTrip.csrrRdbah
  | csrwRdbah v => exact KeyRoundTrip.csrwRdbah v
  | csrrRdlen => exact KeyRoundTrip.csrrRdlen
  | csrwRdlen v => exact KeyRoundTrip.csrwRdlen v
  | csrrRdh => exact KeyRoundTrip.csrrRdh
  | csrwRdh v => exact KeyRoundTrip.csrwRdh v
  | csrrRdt => exact KeyRoundTrip.csrrRdt
  | csrwRdt v => exact KeyRoundTrip.csrwRdt v
  | csrrTdbal => exact KeyRoundTrip.csrrTdbal
  | csrwTdbal v => exact KeyRoundTrip.csrwTdbal v
  | csrrTdbah => exact KeyRoundTrip.csrrTdbah
  | csrwTdbah v => exact KeyRoundTrip.csrwTdbah v
  | csrrTdlen => exact KeyRoundTrip.csrrTdlen
  | csrwTdlen v => exact KeyRoundTrip.csrwTdlen v
  | csrrTdh => exact KeyRoundTrip.csrrTdh
  | csrwTdh v => exact KeyRoundTrip.csrwTdh v
  | csrrTdt => exact KeyRoundTrip.csrrTdt
  | csrwTdt v => exact KeyRoundTrip.csrwTdt v
  | csrrMta i => exact KeyRoundTrip.csrrMta i
  | csrwMta i v => exact KeyRoundTrip.csrwMta i v
  | csrrRal n => exact KeyRoundTrip.csrrRal n
  | csrwRal n v => exact KeyRoundTrip.csrwRal n v
  | csrrRah n => exact KeyRoundTrip.csrrRah n
  | csrwRah n v => exact KeyRoundTrip.csrwRah n v

/-! ## Key word and data word -/

/-- A key word decodes exactly when it has 18 bits, is aligned, and its key decodes. -/
theorem decodeWords_eq_ok {key data : Word} {i : Instr} :
    decodeWords key data = .ok i ↔
      key.extractLsb' 18 14 = 0#14 ∧ key.extractLsb' 0 2 = 0#2 ∧ decodeKey (key.extractLsb' 0 18) data = some i := by
  unfold decodeWords
  split
  · next hwide => simp [hwide]
  · next hnarrow =>
    split
    · next hmis => simp [hmis]
    · next halign =>
      rw [not_not] at hnarrow halign
      split <;> simp [*]

/-- R57, R58: the key word and the value of an instruction decode to it. -/
theorem decodeWords_key (i : Instr) : decodeWords (i.key.setWidth 32) (i.data.getD 0#32) = .ok i := by
  obtain ⟨halign, hkey⟩ := keyRoundTrip i
  exact decodeWords_eq_ok.2 ⟨by simp, by simpa using halign, by simpa using hkey⟩

/-- R57, R58: words that decode are the instruction's key word and, in a write, its value. -/
theorem builtFrom_of_decodeWords {key data : Word} {i : Instr} (h : decodeWords key data = .ok i) :
    key = i.key.setWidth 32 ∧ i.data.getD data = data := by
  obtain ⟨hhigh, _, hkey⟩ := decodeWords_eq_ok.1 h
  obtain ⟨hi, hdata⟩ := builtFrom_of_decodeKey hkey
  exact ⟨by rw [hi, setWidth_keyBits hhigh], hdata⟩

/-! ## The image of a transaction (log entry 7) -/

/-- The image of a read is its key word. -/
theorem decode_read {key : Word} (hkey : keyWrites (key.extractLsb' 0 18) = false) (rest : List Byte) :
    decode (bytesOfWord key ++ rest) = (decodeWords key 0#32).map (·, rest) := by
  simp only [bytesOfWord, List.cons_append, List.nil_append, decode, wordOfBytes_bytesOfWord, hkey]
  cases decodeWords key 0#32 <;> rfl

/-- The image of a write is its key word and its data word. -/
theorem decode_write {key : Word} (hkey : keyWrites (key.extractLsb' 0 18) = true) (data : Word) (rest : List Byte) :
    decode (bytesOfWord key ++ (bytesOfWord data ++ rest)) = (decodeWords key data).map (·, rest) := by
  simp only [bytesOfWord, List.cons_append, List.nil_append, decode, wordOfBytes_bytesOfWord, hkey]
  cases decodeWords key data <;> rfl

theorem map_pair_eq_ok {α β ε : Type} {r : Except ε α} {a : α} {b c : β} :
    r.map (·, b) = .ok (a, c) ↔ r = .ok a ∧ b = c := by
  cases r <;> simp [Except.map]

/-- What decodes begins with a read's key word, or with a write's key word and data word. -/
theorem image_of_decode {bytes rest : List Byte} {i : Instr} (h : decode bytes = .ok (i, rest)) :
    ∃ key : Word,
      (keyWrites (key.extractLsb' 0 18) = false ∧ bytes = bytesOfWord key ++ rest ∧ decodeWords key 0#32 = .ok i) ∨
      ∃ data : Word, keyWrites (key.extractLsb' 0 18) = true ∧ bytes = bytesOfWord key ++ (bytesOfWord data ++ rest) ∧
        decodeWords key data = .ok i := by
  match bytes with
  | b0 :: b1 :: b2 :: b3 :: tail =>
    refine ⟨wordOfBytes b0 b1 b2 b3, ?_⟩
    have hbytes : b0 :: b1 :: b2 :: b3 :: tail = bytesOfWord (wordOfBytes b0 b1 b2 b3) ++ tail := by
      rw [bytesOfWord_wordOfBytes]; rfl
    cases hdir : keyWrites ((wordOfBytes b0 b1 b2 b3).extractLsb' 0 18) with
    | false =>
      rw [hbytes, decode_read hdir] at h
      obtain ⟨hwords, rfl⟩ := map_pair_eq_ok.1 h
      exact .inl ⟨rfl, hbytes, hwords⟩
    | true =>
      match tail with
      | d0 :: d1 :: d2 :: d3 :: tail' =>
        have htail : d0 :: d1 :: d2 :: d3 :: tail' = bytesOfWord (wordOfBytes d0 d1 d2 d3) ++ tail' := by
          rw [bytesOfWord_wordOfBytes]; rfl
        rw [hbytes, htail, decode_write hdir] at h
        obtain ⟨hwords, rfl⟩ := map_pair_eq_ok.1 h
        exact .inr ⟨_, rfl, by rw [hbytes, htail], hwords⟩
      | [] | [_] | [_, _] | [_, _, _] => simp [decode, hdir] at h
  | [] | [_] | [_, _] | [_, _, _] => simp [decode] at h

theorem encode_of_data_none {i : Instr} (hi : i.data = none) : encode i = bytesOfWord (i.key.setWidth 32) := by
  simp [encode, hi]

theorem encode_of_data_some {i : Instr} {v : Word} (hi : i.data = some v) :
    encode i = bytesOfWord (i.key.setWidth 32) ++ bytesOfWord v := by
  simp [encode, hi]

/-- Settles O1: the key bit of the direction tells the decoder which words to read, and they decode. -/
theorem decodeOfEncodeGivesBack : Obligations.DecodeOfEncodeGivesBack := by
  intro i rest
  have hwords := decodeWords_key i
  have hdir := keyWrites_key i
  cases hi : i.data with
  | none =>
    rw [hi] at hdir hwords
    rw [encode_of_data_none hi, decode_read (by simpa using hdir), map_pair_eq_ok]
    exact ⟨hwords, rfl⟩
  | some v =>
    rw [hi] at hdir hwords
    rw [encode_of_data_some hi, List.append_assoc, decode_write (by simpa using hdir), map_pair_eq_ok]
    exact ⟨hwords, rfl⟩

/-- Settles O2: the words that decoded are those of the instruction, and the direction bit tells which there are. -/
theorem decodedBytesAreTheEncoding : Obligations.DecodedBytesAreTheEncoding := by
  intro bytes rest i h
  obtain ⟨key, ⟨hdir, rfl, hwords⟩ | ⟨data, hdir, rfl, hwords⟩⟩ := image_of_decode h
  all_goals
    obtain ⟨rfl, hdata⟩ := builtFrom_of_decodeWords hwords
    rw [keyBits_setWidth, keyWrites_key] at hdir
  · rw [encode_of_data_none (by simpa using hdir)]
  · obtain ⟨v, hv⟩ := Option.isSome_iff_exists.1 hdir
    obtain rfl : v = data := by simpa [hv] using hdata
    rw [encode_of_data_some hv, List.append_assoc]

/-- Settles O3: the model's decoder evaluated on the eight images. -/
theorem sampleWordsDecode : Obligations.SampleWordsDecode :=
  ⟨rfl, rfl, rfl, rfl, rfl, rfl, rfl, rfl⟩

end Sys2Proof.Laws
end

section
/-! PROOFS. A step that issues a CSR transaction runs the instruction its words decode to (R56, R57, R69). -/

namespace Sys2Proof.Machine

/-! ## The checks of a transaction (R69) -/

/-- R56: the key word of a transaction inside the window. -/
theorem transactionKey_setWidth {x : Transaction} (hx : x.offset < 0x20000) :
    (transactionKey x).setWidth 32 = BitVec.ofNat 32 (x.offset + if x.write then 0x20000 else 0) := by
  apply BitVec.eq_of_toNat_eq
  simp only [transactionKey, BitVec.toNat_setWidth, BitVec.toNat_ofNat]
  split <;> omega

/-- R56: a key word that decodes is aligned, so its offset is. -/
theorem aligned_of_decodeWords {n : Nat} {write : Bool} {v : Word} {i : Instr}
    (h : decodeWords (BitVec.ofNat 32 (n + if write then 0x20000 else 0)) v = .ok i) : n % 4 = 0 := by
  obtain ⟨_, hlow, _⟩ := Laws.decodeWords_eq_ok.1 h
  have hmod := congrArg BitVec.toNat hlow
  simp only [BitVec.extractLsb'_toNat, BitVec.toNat_ofNat, Nat.shiftRight_zero] at hmod
  split at hmod <;> omega

/-- R69: a 32-bit access in the window whose words decode passes every check. -/
theorem checkTransaction_of_decodeWords {x : Transaction} {i : Instr} (hwidth : x.width = 4)
    (hoffset : x.offset < 0x20000)
    (h : decodeWords (BitVec.ofNat 32 (x.offset + if x.write then 0x20000 else 0)) x.value = .ok i) :
    checkTransaction x = .ok i := by
  have halign := aligned_of_decodeWords h
  simp [checkTransaction, hwidth, Config.regSize, Nat.not_le.mpr hoffset, halign, transactionKey_setWidth hoffset, h]

/-! ## The step of a CSR form -/

/-- R155: the transaction of a read carries the value 0. -/
theorem value_of_read {temps : List (Nat × Int)} {f : Form} {x : Transaction} (h : formTransaction temps f = some x)
    (hx : x.write = false) : x.value = 0#32 := by
  cases f <;> cases h
  · rfl
  · cases hx

/-- A form that issues a transaction is a CSR form. -/
theorem hostForm_of_transaction {k : Nat} {t : Task} {s : State} {f : Form} {x : Transaction}
    (h : formTransaction t.temps f = some x) : hostForm k t s f = hostCsr k t f x s := by
  cases f <;> cases h <;> rfl

/-- R169: with no fault recorded and outside a reset, a task that has a next form is enabled. -/
theorem turnEnabled_host {s : State} {k : Nat} {t : Task} {f : Form} (hfaults : s.faults = [])
    (hreset : s.inReset = false) (ht : s.tasks[k]? = some t) (hf : t.nextForm = some f) :
    turnEnabled s (.host k) = true := by
  simp [turnEnabled, hostEnabled, held, hfaults, hreset, ht, hf]

/-- R168: with no fault recorded a step is the step of the enabled agent whose turn it is. -/
theorem step_eq_turnStep {s : State} {u : Turn} {rest : List Turn} (hfaults : s.faults = [])
    (hagenda : s.agenda = u :: rest) (hu : turnEnabled { s with agenda := rest } u = true) :
    step s = turnStep { s with agenda := rest } u := by
  have hnone : stepFault s = none := by simp [stepFault, hfaults]
  simp only [step, hnone, takeTurn, hagenda, runTurn, if_pos hu]

/-- R69: outside a reset a transaction that passes the checks runs its instruction. -/
theorem hostCsr_of_checked {k : Nat} {t : Task} {f : Form} {x : Transaction} {i : Instr} {s : State}
    (hreset : s.inReset = false) (hcheck : checkTransaction x = .ok i) :
    hostCsr k t f x s =
      andThen (exec i s) fun u => .next (u.setTask k (t.receive (formDest f) u.busData).advance) := by
  simp [hostCsr, hcheck, hreset]

/-- R155, R156: the step of a task that issues a transaction which passes the checks runs its instruction. -/
theorem step_of_checked {s : State} {k : Nat} {rest : List Turn} {t : Task} {f : Form} {x : Transaction} {i : Instr}
    (hfaults : s.faults = []) (hreset : s.inReset = false) (hagenda : s.agenda = .host k :: rest)
    (ht : s.tasks[k]? = some t) (hf : t.nextForm = some f) (hx : formTransaction t.temps f = some x)
    (hcheck : checkTransaction x = .ok i) :
    step s = andThen (exec i { s with agenda := rest }) fun u =>
      .next (u.setTask k (t.receive (formDest f) u.busData).advance) :=
  calc step s
    _ = hostStep k { s with agenda := rest } := step_eq_turnStep hfaults hagenda (turnEnabled_host hfaults hreset ht hf)
    _ = hostForm k t { s with agenda := rest } f := hostStep_eq_hostForm ht hf
    _ = hostCsr k t f x { s with agenda := rest } := hostForm_of_transaction hx
    _ = _ := hostCsr_of_checked hreset hcheck

/-! ## A transaction's image -/

/-- R56: the direction of a transaction is the direction bit of its key word. -/
theorem keyWrites_transaction {x : Transaction} (hx : x.offset < 0x20000) :
    keyWrites ((BitVec.ofNat 32 (x.offset + if x.write then 0x20000 else 0)).extractLsb' 0 18) = x.write := by
  rw [← transactionKey_setWidth hx, Laws.keyBits_setWidth, transactionKey, Laws.keyWrites_ofNat hx]

/-- Bytes that begin with a key word, and if it is a write's with a data word next, decode by these words. -/
theorem decodeWords_of_decode {key data : Word} {bytes rest rest' : List Byte} {i : Instr}
    (hdata : keyWrites (key.extractLsb' 0 18) = true → bytes = bytesOfWord data ++ rest)
    (h : decode (bytesOfWord key ++ bytes) = .ok (i, rest')) :
    decodeWords key (if keyWrites (key.extractLsb' 0 18) then data else 0#32) = .ok i := by
  cases hdir : keyWrites (key.extractLsb' 0 18) with
  | false =>
    rw [Laws.decode_read hdir, Laws.map_pair_eq_ok] at h
    exact h.1
  | true =>
    rw [hdata hdir, Laws.decode_write hdir, Laws.map_pair_eq_ok] at h
    exact h.1

/-- Settles O5: the words that decode pass the checks of R69, and a read carries no value. -/
theorem stepRunsTheDecodedTransaction : Obligations.StepRunsTheDecodedTransaction := by
  intro s k rest t f x i hfaults hreset hagenda ht hf hx hwidth hoffset hdecode
  have hdir := keyWrites_transaction hoffset
  have hvalue : (if x.write then x.value else 0#32) = x.value := by
    cases hw : x.write with
    | false => exact (value_of_read hx hw).symm
    | true => rfl
  have hwords := decodeWords_of_decode (data := x.value) (rest := [])
    (fun hw => by simp [hdir.symm.trans hw]) hdecode
  rw [hdir, hvalue] at hwords
  rw [step_of_checked hfaults hreset hagenda ht hf hx (checkTransaction_of_decodeWords hwidth hoffset hwords)]
  cases exec i { s with agenda := rest } <;> rfl

/-! ## Table words (log entry 6) -/

/-- A byte of a word from a number. -/
theorem extractLsb'_ofNat_byte (v : Nat) {j : Nat} (hj : j + 8 ≤ 32) :
    (BitVec.ofNat 32 v).extractLsb' j 8 = BitVec.ofNat 8 (v / 2 ^ j) := by
  apply BitVec.eq_of_getLsbD_eq
  intro i hi
  simp only [BitVec.getLsbD_extractLsb', BitVec.getLsbD_ofNat, Nat.testBit_div_two_pow, hi,
    show i + j < 32 by omega, Nat.add_comm j i, decide_true, Bool.true_and]

/-- A table word's eight bytes are a key word and a data word. -/
theorem bytesOfNat_eight (v : Nat) :
    bytesOfNat 8 v = bytesOfWord (BitVec.ofNat 32 v) ++ bytesOfWord (BitVec.ofNat 32 (v / 2 ^ 32)) := by
  simp [bytesOfNat, bytesOfWord, extractLsb'_ofNat_byte, Nat.div_div_eq_div_mul]

/-- R56: a table word whose key has 18 bits stands for the transaction of that key. -/
theorem transactionOfTableWord_key {nbits w : Nat} (hkey : w % 2 ^ nbits % 2 ^ 32 < 2 ^ 18) :
    let x := transactionOfTableWord nbits w
    x.offset < 0x20000 ∧ x.offset + (if x.write then 0x20000 else 0) = w % 2 ^ nbits % 2 ^ 32 := by
  simp only [transactionOfTableWord, beq_iff_eq]
  split <;> omega

/-- R56: a table word decodes to the instruction of the transaction it stands for. -/
theorem checkTransaction_of_decodeTableWord {nbits w : Nat} {i : Instr} (h : decodeTableWord nbits w = some i) :
    checkTransaction (transactionOfTableWord nbits w) = .ok i := by
  obtain ⟨rest, hdecode⟩ : ∃ rest, decode (bytesOfNat 8 (w % 2 ^ nbits)) = .ok (i, rest) := by
    simp only [decodeTableWord] at h
    split at h
    · next hok =>
      cases h
      exact ⟨_, hok⟩
    · cases h
  rw [bytesOfNat_eight] at hdecode
  have hwords := decodeWords_of_decode (rest := []) (fun _ => (List.append_nil _).symm) hdecode
  have hkey : w % 2 ^ nbits % 2 ^ 32 < 2 ^ 18 := by
    obtain ⟨hhigh, _⟩ := Laws.decodeWords_eq_ok.1 hwords
    have hnat := congrArg BitVec.toNat hhigh
    simp only [BitVec.extractLsb'_toNat, BitVec.toNat_ofNat, Nat.shiftRight_eq_div_pow] at hnat
    omega
  obtain ⟨hoffset, hword⟩ := transactionOfTableWord_key hkey
  have hkeyWord : BitVec.ofNat 32 (w % 2 ^ nbits) = BitVec.ofNat 32
      ((transactionOfTableWord nbits w).offset + if (transactionOfTableWord nbits w).write then 0x20000 else 0) := by
    rw [hword]
    exact BitVec.eq_of_toNat_eq (by simp)
  rw [hkeyWord, keyWrites_transaction hoffset] at hwords
  exact checkTransaction_of_decodeWords rfl hoffset hwords

/-- The form that issues a transaction issues exactly it: a read carries the value 0. -/
theorem formTransaction_transactionForm {temps : List (Nat × Int)} {x : Transaction}
    (hread : x.write = false → x.value = 0#32) : formTransaction temps (transactionForm x) = some x := by
  obtain ⟨write, offset, width, value⟩ := x
  cases write with
  | false =>
    obtain rfl : value = 0#32 := hread rfl
    rfl
  | true => simp [transactionForm, formTransaction, evalExpr]

theorem value_of_tableWord_read {nbits w : Nat} (h : (transactionOfTableWord nbits w).write = false) :
    (transactionOfTableWord nbits w).value = 0#32 :=
  if_neg (Bool.eq_false_iff.1 h)

theorem formDest_transactionForm (x : Transaction) :
    formDest (transactionForm x) = if x.write then none else some 0 := by
  rw [transactionForm]
  split <;> rfl

/-- Settles O6: the new task's only form issues the table word's transaction, which passes the checks of R69. -/
theorem fetchedTableWordRuns : Obligations.FetchedTableWordRuns := by
  intro s nbits w i hfaults hreset hdecode x t
  have hissues : formTransaction t.temps (transactionForm x) = some x :=
    formTransaction_transactionForm value_of_tableWord_read
  rw [← formDest_transactionForm]
  exact step_of_checked (s := s.withFetchWord nbits w) hfaults hreset rfl (by simp [State.withFetchWord, t, x]) rfl
    hissues (checkTransaction_of_decodeTableWord hdecode)

end Sys2Proof.Machine
end

section
/-! PROOFS. The checks of a CSR transaction in their order, the hold, and the register's rule (R69). -/

namespace Sys2Proof.Machine

/-! ## The instruction of a transaction (R56, R58) -/

/-- R56: a key determines the offset it names. -/
theorem offset_eq_of_key_eq {i : Instr} {x : Transaction} (hx : x.offset < 0x20000)
    (h : transactionKey x = i.key) : i.reg.offset = x.offset := by
  have hi := Laws.reg_offset_lt i.reg
  have hnat := congrArg BitVec.toNat h
  rw [Laws.key_eq_offset_add_direction] at hnat
  simp only [transactionKey, BitVec.toNat_ofNat] at hnat
  split at hnat <;> split at hnat <;> omega

/-- R58: the key of an instruction's register and direction is the instruction's. -/
theorem transactionKey_eq_key {i : Instr} {x : Transaction} (hreg : i.reg.offset = x.offset)
    (hdir : i.data.isSome = x.write) : transactionKey x = i.key := by
  rw [Laws.key_eq_offset_add_direction, transactionKey, hreg, hdir]

/-! ## What the checks answer (R69) -/

theorem checkTransaction_of_badWidth {x : Transaction} (hwidth : x.width ≠ 4) :
    checkTransaction x = .error (.csrBadWidth x.offset x.width) := by
  simp [checkTransaction, hwidth]

theorem checkTransaction_of_outOfWindow {x : Transaction} (hwidth : x.width = 4) (hoffset : 0x20000 ≤ x.offset) :
    checkTransaction x = .error (.csrOutOfWindow x.offset) := by
  simp [checkTransaction, hwidth, Config.regSize, hoffset]

theorem checkTransaction_of_misaligned {x : Transaction} (hwidth : x.width = 4) (hoffset : x.offset < 0x20000)
    (halign : x.offset % 4 ≠ 0) : checkTransaction x = .error (.csrMisaligned x.offset) := by
  simp [checkTransaction, hwidth, Config.regSize, Nat.not_le.mpr hoffset, halign]

/-- R69: the key at an offset of no register does not decode, since what decodes is some instruction's key. -/
theorem checkTransaction_of_undocumented {x : Transaction} (hwidth : x.width = 4) (hoffset : x.offset < 0x20000)
    (halign : x.offset % 4 = 0) (hreg : ∀ r : Reg, r.offset ≠ x.offset) :
    checkTransaction x = .error (.csrUndocumented x.offset) := by
  cases hwords : decodeWords ((transactionKey x).setWidth 32) x.value with
  | error e => simp [checkTransaction, hwidth, Config.regSize, Nat.not_le.mpr hoffset, halign, hwords]
  | ok i =>
    obtain ⟨hword, _⟩ := Laws.builtFrom_of_decodeWords hwords
    have hkey := congrArg (BitVec.extractLsb' 0 18) hword
    rw [Laws.keyBits_setWidth, Laws.keyBits_setWidth] at hkey
    exact absurd (offset_eq_of_key_eq hoffset hkey) (hreg i.reg)

/-- R69: the transaction of an instruction's register, direction and value passes every check. -/
theorem checkTransaction_of_instr {x : Transaction} {i : Instr} (hwidth : x.width = 4)
    (hreg : i.reg.offset = x.offset) (hdata : i.data = if x.write then some x.value else none)
    (hread : x.write = false → x.value = 0#32) : checkTransaction x = .ok i := by
  have hoffset : x.offset < 0x20000 := hreg ▸ Laws.reg_offset_lt i.reg
  have hdir : i.data.isSome = x.write := by cases hw : x.write <;> simp [hdata, hw]
  have hvalue : i.data.getD 0#32 = x.value := by
    cases hw : x.write with
    | false => simp [hdata, hw, hread hw]
    | true => simp [hdata, hw]
  have hwords := Laws.decodeWords_key i
  rw [hvalue, ← transactionKey_eq_key hreg hdir, transactionKey_setWidth hoffset] at hwords
  exact checkTransaction_of_decodeWords hwidth hoffset hwords

/-! ## When a task that issues a transaction is enabled (R69, R169) -/

/-- R169: a task that has a next form is enabled exactly when the form is not held. -/
theorem hostEnabled_eq_not_held {s : State} {k : Nat} {t : Task} {f : Form} (ht : s.tasks[k]? = some t)
    (hf : t.nextForm = some f) : hostEnabled k s = !held s t f := by
  simp only [hostEnabled, ht, hf]

theorem held_of_error {s : State} {t : Task} {f : Form} {x : Transaction} {e : Fault}
    (hx : formTransaction t.temps f = some x) (hcheck : checkTransaction x = .error e) : held s t f = false := by
  simp [held, hx, hcheck]

theorem held_of_checked {s : State} {t : Task} {f : Form} {x : Transaction} {i : Instr}
    (hx : formTransaction t.temps f = some x) (hcheck : checkTransaction x = .ok i) : held s t f = s.inReset := by
  simp [held, hx, hcheck]

section
variable {s : State} {k : Nat} {t : Task} {f : Form} {x : Transaction} (ht : s.tasks[k]? = some t)
  (hf : t.nextForm = some f) (hx : formTransaction t.temps f = some x)
include ht hf hx

/-- R69: a transaction that fails a check faults, and no reset in progress holds it back. -/
theorem hostStep_of_error {e : Fault} (hcheck : checkTransaction x = .error e) :
    hostEnabled k s = true ∧ hostStep k s = .fault e := by
  refine ⟨by rw [hostEnabled_eq_not_held ht hf, held_of_error hx hcheck, Bool.not_false], ?_⟩
  rw [hostStep_eq_hostForm ht hf, hostForm_of_transaction hx, hostCsr, hcheck]

/-- R69: a transaction that passes the checks is enabled exactly outside a reset. -/
theorem hostEnabled_of_checked {i : Instr} (hcheck : checkTransaction x = .ok i) :
    hostEnabled k s = !s.inReset := by
  rw [hostEnabled_eq_not_held ht hf, held_of_checked hx hcheck]

end

/-- Settles O4: the clauses are the outcomes of `checkTransaction`; what it rejects faults at once, and what it
passes waits for the end of a reset and then runs. -/
theorem transactionChecksInOrder : Obligations.TransactionChecksInOrder := by
  intro s k t f x ht hf hx
  refine ⟨fun hwidth => ?badWidth, fun hwidth hoffset => ?outOfWindow, fun hwidth hoffset halign => ?misaligned,
    fun hwidth hoffset halign hreg => ?undocumented, fun i hwidth hreg hdata => ?documented⟩
  case badWidth => exact hostStep_of_error ht hf hx (checkTransaction_of_badWidth hwidth)
  case outOfWindow => exact hostStep_of_error ht hf hx (checkTransaction_of_outOfWindow hwidth hoffset)
  case misaligned => exact hostStep_of_error ht hf hx (checkTransaction_of_misaligned hwidth hoffset halign)
  case undocumented => exact hostStep_of_error ht hf hx (checkTransaction_of_undocumented hwidth hoffset halign hreg)
  case documented =>
    have hcheck := checkTransaction_of_instr hwidth hreg hdata (value_of_read hx)
    have henabled := hostEnabled_of_checked ht hf hx hcheck
    refine ⟨fun hreset => by rw [henabled, hreset, Bool.not_true],
      fun hreset => ⟨by rw [henabled, hreset, Bool.not_false], ?_⟩⟩
    rw [hostStep_eq_hostForm ht hf, hostForm_of_transaction hx, hostCsr_of_checked hreset hcheck]

end Sys2Proof.Machine
end

section
/-! PROOFS. The device and interrupt registers of 40_register_window.md: what their reads return and their writes
store (R73 to R84). -/

namespace Sys2Proof.Machine

/-! ## Fields of a word (R59) -/

/-- R59: a placed field read back at its bits. -/
theorem extractLsb'_place_same {w lo : Nat} (f : BitVec w) (h : lo + w ≤ 32) :
    (place lo f).extractLsb' lo w = f := by
  apply BitVec.eq_of_getLsbD_eq
  intro j hj
  simp [place, hj, show lo + j < 32 by omega]

/-- R59: a placed field is 0 at bits beside its own. -/
theorem extractLsb'_place_disjoint {w lo lo' w' : Nat} (f : BitVec w) (h : lo' + w' ≤ lo ∨ lo + w ≤ lo') :
    (place lo f).extractLsb' lo' w' = 0#w' := by
  apply BitVec.eq_of_getLsbD_eq
  intro j hj
  simp only [place, BitVec.getLsbD_extractLsb', BitVec.getLsbD_shiftLeft, BitVec.getLsbD_zero,
    BitVec.getLsbD_setWidth]
  rcases h with hbelow | habove
  · simp [show lo' + j < lo by omega]
  · simp [BitVec.getLsbD_of_ge f (lo' + j - lo) (by omega)]

/-! ## Keys (R58) -/

/-- R58: the key of a write is the offset of its register, and the direction bit. -/
theorem writeKey {i : Instr} (n : Nat) (hreg : i.reg.offset = n) (hdata : i.data.isSome = true) :
    i.key = BitVec.ofNat 18 (n + 0x20000) := by
  rw [Laws.key_eq_offset_add_direction, hreg, if_pos hdata]

/-! ## Reads (R70) -/

/-- R70: a read of cells that are all written returns a value, and changes nothing else but the count of draws. -/
theorem readCells_some (s : State) (o : Nat) (v x : Word) :
    readCells s o (some v) x = .next { s with busData := (s.returnDrawn v x).busData, drawn := s.drawn + 1 } := rfl

/-- R70: outside the class X bits a read returns the stored bits. -/
theorem extractLsb'_of_returnDrawn {s : State} {v x : Word} {lo w : Nat} (hx : x.extractLsb' lo w = 0#w) :
    (s.returnDrawn v x).busData.extractLsb' lo w = v.extractLsb' lo w := by
  apply BitVec.eq_of_getLsbD_eq
  intro j hj
  have hbit : x.getLsbD (lo + j) = false := by
    simpa [hj] using congrArg (fun y => y.getLsbD j) hx
  simp only [returnDrawn_busData, BitVec.getLsbD_extractLsb', BitVec.getLsbD_or, BitVec.getLsbD_and, hbit,
    Bool.and_false, Bool.or_false]
  by_cases hlt : lo + j < 32
  · simp only [BitVec.getLsbD_not, hlt, hbit, decide_true, Bool.not_false, Bool.and_true]
  · simp only [BitVec.getLsbD_of_ge v _ (Nat.le_of_not_lt hlt), Bool.false_and]

/-- R21, R22: a read of a cause register returns bits 16:0 as stored. -/
theorem causes_of_returnDrawn (s : State) (c : BitVec 17) :
    (s.returnDrawn (c.setWidth 32) causeX).busData.extractLsb' 0 17 = c := by
  rw [extractLsb'_of_returnDrawn (by decide), BitVec.extractLsb'_setWidth_of_le (by decide), BitVec.extractLsb'_eq_self]

/-- R70: the joined value is `⊥` exactly when one of the fields is. -/
theorem joinCells_eq_none {cs : List (RegCell 32)} : joinCells cs = none ↔ ∃ c ∈ cs, c = none := by
  induction cs with
  | nil => simp [joinCells]
  | cons c cs ih =>
    cases c with
    | none => simp [joinCells]
    | some a =>
      rw [List.exists_mem_cons_iff, ← ih]
      cases hcs : joinCells cs <;> simp [joinCells, hcs]

/-! ## CTRL (R73, R74) -/

theorem placeCell_eq_none {w lo : Nat} {c : RegCell w} : placeCell lo c = none ↔ c = none :=
  Option.map_eq_none_iff

/-- R73: CTRL cannot be read exactly while one of its ST fields is `⊥`. -/
theorem ctrl_stored_eq_none {c : Ctrl} :
    c.stored = none ↔
      c.fd = none ∨ c.lrst = none ∨ c.asde = none ∨ c.slu = none ∨ c.ilos = none ∨ c.speed = none ∨
      c.frcspd = none ∨ c.frcdplx = none ∨ c.sdp0Data = none ∨ c.sdp1Data = none ∨ c.advd3wuc = none ∨
      c.enPhyPwrMgmt = none ∨ c.sdp0Iodir = none ∨ c.sdp1Iodir = none ∨ c.rfce = none ∨ c.tfce = none ∨
      c.vme = none ∨ c.phyRst = none := by
  simp only [Ctrl.stored, joinCells_eq_none, List.exists_mem_cons_iff, List.not_mem_nil, false_and, exists_false,
    or_false, placeCell_eq_none]

theorem exec_csrrCtrl (s : State) : exec .csrrCtrl s = readCells s 0x00000 s.regs.ctrl.stored ctrlX := rfl

theorem exec_csrwCtrl (v : Word) (s : State) : exec (.csrwCtrl v) s = execCsrwCtrl v s := rfl

/-- Settles O8: the stored value is the OR of the fields at disjoint bits, and no draw reaches these or bit 26. -/
theorem ctrlReadGivesStoredFields : Obligations.CtrlReadGivesStoredFields := by
  refine ⟨rfl, fun s => ⟨?written, fun hnone => ?unwritten⟩⟩
  case written =>
    intro fd lrst asde slu ilos speed frcspd frcdplx d0 d1 wuc phy io0 io1 rfce tfce vme prst hctrl
    have hstored : s.regs.ctrl.stored = some (place 0 fd ||| (place 3 lrst ||| (place 5 asde ||| (place 6 slu |||
        (place 7 ilos ||| (place 8 speed ||| (place 11 frcspd ||| (place 12 frcdplx ||| (place 18 d0 |||
        (place 19 d1 ||| (place 20 wuc ||| (place 21 phy ||| (place 22 io0 ||| (place 23 io1 ||| (place 27 rfce |||
        (place 28 tfce ||| (place 30 vme ||| (place 31 prst ||| 0#32)))))))))))))))))) := by
      rw [hctrl]
      rfl
    refine ⟨_, _, by rw [exec_csrrCtrl, hstored, readCells_some], ?_⟩
    simp (disch := decide) only [extractLsb'_of_returnDrawn, BitVec.extractLsb'_or, extractLsb'_place_same,
      extractLsb'_place_disjoint, BitVec.or_zero, BitVec.zero_or, and_self]
  case unwritten =>
    rw [exec_csrrCtrl, ctrl_stored_eq_none.2 hnone, readCells]

/-- R74: the bits whose value 1 a write of CTRL refuses. -/
theorem ctrlRefused_iff {v : Word} :
    ctrlRefused v = true ↔ v.getLsbD 3 = true ∨ v.getLsbD 27 = true ∨ v.getLsbD 28 = true ∨ v.getLsbD 30 = true ∨
      v.getLsbD 31 = true := by
  simp only [ctrlRefused, Bool.or_eq_true, or_assoc]

theorem field_one_of_clear {v : Word} {i : Nat} (h : v.getLsbD i = false) : field v i 1 = 0#1 := by
  rw [field_one, h]
  rfl

/-- Settles O9: a refused bit decides; without one the refused fields store 0, and bit 26 alone starts a reset. -/
theorem ctrlWriteStoresOrStartsReset : Obligations.CtrlWriteStoresOrStartsReset := by
  intro s v
  refine ⟨writeKey 0x00000 rfl rfl, fun hset => ?refused, fun hlrst hrfce htfce hvme hphy => ?stored⟩
  case refused => rw [exec_csrwCtrl, execCsrwCtrl, if_pos (ctrlRefused_iff.2 hset)]
  case stored =>
    have hclear : ¬ctrlRefused v = true := by
      simp only [ctrlRefused, hlrst, hrfce, htfce, hvme, hphy, Bool.or_false, Bool.false_eq_true, not_false_eq_true]
    have hreset : (s.inReset || v.getLsbD 26) = if v.getLsbD 26 then true else s.inReset := by
      cases v.getLsbD 26 <;> simp
    rw [exec_csrwCtrl, execCsrwCtrl, if_neg hclear, hreset, Ctrl.ofWord, field_one_of_clear hlrst,
      field_one_of_clear hrfce, field_one_of_clear htfce, field_one_of_clear hvme, field_one_of_clear hphy]
    rfl

/-! ## STATUS (R75, R76) -/

/-- Settles O10: the parameter LINK_STATUS is all a read returns, and every field of STATUS is read-only. -/
theorem statusReadsLinkStatusAndIgnoresWrites : Obligations.StatusReadsLinkStatusAndIgnoresWrites :=
  ⟨rfl, fun _ _ => ⟨writeKey 0x00008 rfl rfl, rfl, rfl⟩⟩

/-! ## Interrupt causes and mask (R77 to R84) -/

/-- R21, R22: the low 17 bits of a written value are its bits 16:0. -/
theorem setWidth_causes (v : Word) : v.setWidth 17 = v.extractLsb' 0 17 :=
  BitVec.setWidth_eq_extractLsb' (by decide)

/-- Settles O11: the causes are stored bits, which no draw reaches. -/
theorem icrReadReturnsAndClears : Obligations.IcrReadReturnsAndClears :=
  ⟨rfl, fun s => ⟨_, _, rfl, causes_of_returnDrawn s s.regs.icr⟩⟩

/-- Settles O12: both writes look at bits 16:0 of the value alone. -/
theorem causeWritesClearAndSet : Obligations.CauseWritesClearAndSet := by
  intro s v
  rw [← setWidth_causes]
  exact ⟨writeKey 0x000C0 rfl rfl, writeKey 0x000C8 rfl rfl, rfl, rfl⟩

/-- Settles O13: IMS and IMC share the one mask, of which IMS reads every bit. -/
theorem maskReadSetAndClear : Obligations.MaskReadSetAndClear := by
  refine ⟨rfl, fun s v => ?_⟩
  rw [← setWidth_causes]
  exact ⟨writeKey 0x000D0 rfl rfl, writeKey 0x000D8 rfl rfl, ⟨_, _, rfl, causes_of_returnDrawn s s.regs.imask⟩, rfl, rfl⟩

/-- Settles O14: the two registers have no read rule but the fault. -/
theorem writeOnlyReadsFault : Obligations.WriteOnlyReadsFault :=
  ⟨rfl, rfl, fun _ => ⟨rfl, rfl⟩⟩

end Sys2Proof.Machine
end

section
/-! PROOFS. The EEPROM registers and the EEP step of 41_eeprom.md: what reads and writes of EECD and EERD do (R85 to
R88), what the step does (R89), and that a fair run completes a pending read (R169). -/

namespace Sys2Proof.Machine

/-! ## Bits of a read (R59, R70) -/

/-- R59: a one-bit field is its bit. -/
theorem getLsbD_of_extractLsb'_one {v : Word} {i : Nat} {b : Bool} (h : v.extractLsb' i 1 = BitVec.ofBool b) :
    v.getLsbD i = b :=
  BitVec.ofBool_eq_iff_eq.1 ((field_one v i).symm.trans h)

/-- R70: a bit that is not of class X is read as it is stored. -/
theorem getLsbD_of_returnDrawn {s : State} {v x : Word} {i : Nat} {b : Bool} (hx : x.extractLsb' i 1 = 0#1)
    (hv : v.extractLsb' i 1 = BitVec.ofBool b) : (s.returnDrawn v x).busData.getLsbD i = b :=
  getLsbD_of_extractLsb'_one ((extractLsb'_of_returnDrawn hx).trans hv)

/-! ## EECD (R85, R86) -/

theorem exec_csrrEecd (s : State) :
    exec .csrrEecd s = .next (s.returnDrawn (eecdStored s.regs.eeReq) eecdX) := rfl

theorem exec_csrwEecd (v : Word) (s : State) :
    exec (.csrwEecd v) s = .next { s with regs := { s.regs with eeReq := v.getLsbD 6 } } := rfl

/-- R85: EE_REQ stands at bit 6 and, granted at once, at bit 7; bit 8 is 1. -/
theorem eecdStored_bits (req : Bool) :
    (eecdStored req).extractLsb' 6 1 = BitVec.ofBool req ∧ (eecdStored req).extractLsb' 7 1 = BitVec.ofBool req ∧
      (eecdStored req).extractLsb' 8 1 = BitVec.ofBool true := by
  simp (disch := decide) only [eecdStored, placeBit, BitVec.extractLsb'_or, extractLsb'_place_same,
    extractLsb'_place_disjoint, BitVec.or_zero, BitVec.zero_or, and_self]

/-- Settles O16: bits 8:6 of EECD are outside its class X bits, so no draw reaches them. -/
theorem eecdReadAndWrite : Obligations.EecdReadAndWrite := by
  refine ⟨rfl, fun s v => ⟨writeKey 0x00010 rfl rfl, ⟨_, _, exec_csrrEecd s, ?_⟩, exec_csrwEecd v s⟩⟩
  obtain ⟨hreq, hgnt, hpres⟩ := eecdStored_bits s.regs.eeReq
  exact ⟨getLsbD_of_returnDrawn (by decide) hreq, getLsbD_of_returnDrawn (by decide) hgnt,
    getLsbD_of_returnDrawn (by decide) hpres⟩

/-! ## EERD (R87, R88) -/

theorem exec_csrrEerd (s : State) :
    exec .csrrEerd s = .next (s.returnDrawn (eerdStored s.regs) (eerdX s.eerdPending)) := rfl

/-- R88: START = 1 starts a read of the word named, whatever is pending. -/
theorem exec_csrwEerd_start {v : Word} (s : State) (hstart : v.getLsbD 0 = true) :
    exec (.csrwEerd v) s = .next { s with
      regs := { s.regs with eerdAddr := v.extractLsb' 8 8, eerdDone := false }
      eerdPending := true
      eerdReqAddr := v.extractLsb' 8 8 } :=
  if_pos hstart

/-- R88: START = 0 stores ADDR alone. -/
theorem exec_csrwEerd_noStart {v : Word} (s : State) (hstart : v.getLsbD 0 = false) :
    exec (.csrwEerd v) s = .next { s with regs := { s.regs with eerdAddr := v.extractLsb' 8 8 } } :=
  if_neg (Bool.eq_false_iff.1 hstart)

/-- R87: the stored value holds DONE at bit 4, ADDR at 15:8 and DATA at 31:16. -/
theorem eerdStored_fields (r : Csrs) :
    (eerdStored r).extractLsb' 4 1 = BitVec.ofBool r.eerdDone ∧ (eerdStored r).extractLsb' 8 8 = r.eerdAddr ∧
      (eerdStored r).extractLsb' 16 16 = r.eerdData := by
  simp (disch := decide) only [eerdStored, placeBit, BitVec.extractLsb'_or, extractLsb'_place_same,
    extractLsb'_place_disjoint, BitVec.or_zero, BitVec.zero_or, and_self]

/-- R87: DONE and ADDR are never drawn; DATA is not while no read is pending. -/
theorem eerdX_clear (pending : Bool) :
    (eerdX pending).extractLsb' 4 1 = 0#1 ∧ (eerdX pending).extractLsb' 8 8 = 0#8 ∧
      (pending = false → (eerdX pending).extractLsb' 16 16 = 0#16) := by
  cases pending <;> decide

/-- Settles O17: the read shows the stored fields outside the drawn bits, and START decides between the two writes. -/
theorem eerdReadAndWrite : Obligations.EerdReadAndWrite := by
  refine ⟨rfl, fun s v => ⟨writeKey 0x00014 rfl rfl, ⟨_, _, exec_csrrEerd s, ?_⟩, exec_csrwEerd_start s,
    exec_csrwEerd_noStart s⟩⟩
  obtain ⟨hdone, haddr, hdata⟩ := eerdStored_fields s.regs
  obtain ⟨hxdone, hxaddr, hxdata⟩ := eerdX_clear s.eerdPending
  exact ⟨getLsbD_of_returnDrawn hxdone hdone, (extractLsb'_of_returnDrawn hxaddr).trans haddr,
    fun hidle => (extractLsb'_of_returnDrawn (hxdata hidle)).trans hdata⟩

/-! ## The EEP step (R89) -/

/-- R89, R164: when the EEP turn is enabled. -/
theorem turnEnabled_eep {s : State} :
    turnEnabled s .eep = true ↔ s.faults = [] ∧ s.eerdPending = true ∧ s.inReset = false := by
  simp [turnEnabled, eepEnabled]

/-- R89: a word of the EEPROM is delivered as it is, without a draw. -/
theorem eepStep_of_lt {s : State} (h : s.eerdReqAddr.toNat < 64) :
    eepStep s = .next { s with
      regs := { s.regs with eerdData := s.params.eeprom[s.eerdReqAddr.toNat], eerdDone := true }
      eerdPending := false } := by
  have hdrawn : s.eerdReqAddr.toNat < Config.eepromWords := h
  rw [eepStep, eepWord, dif_pos h, if_pos hdrawn]

/-- Settles O18: the step's one case split is whether the address names a word of the EEPROM. -/
theorem eepStepCompletesRead : Obligations.EepStepCompletesRead :=
  fun _ => ⟨turnEnabled_eep, eepStep_of_lt, fun _ => ⟨_, _, rfl⟩⟩

/-! ## What keeps a read pending (R88, R89) -/

/-- R88: no CSR transaction ends a pending read; a new START abandons it for another one. -/
theorem exec_keeps_pending {i : Instr} {s t : State} (hpending : s.eerdPending = true) (h : exec i s = .next t) :
    t.eerdPending = true := by
  by_cases hreg : i.reg = .eerd
  · cases i with
    | csrrEerd => cases h; exact hpending
    | csrwEerd v =>
      cases hstart : v.getLsbD 0 with
      | true => rw [exec_csrwEerd_start s hstart] at h; cases h; rfl
      | false => rw [exec_csrwEerd_noStart s hstart] at h; cases h; exact hpending
    | _ => cases hreg
  · obtain ⟨_, _, _, _, _, _, _, _, _, _, _, heerd⟩ := transactionsTouchOnlyRegisters i s t h
    obtain ⟨hsame, _⟩ := heerd hreg
    exact hsame.trans hpending

theorem hostStep_keeps_pending {k : Nat} {s t : State} (hpending : s.eerdPending = true)
    (h : hostStep k s = .next t) : t.eerdPending = true := by
  rcases hostStep_outcome h with (rfl | ⟨i, u, task, hexec, rfl⟩) | ⟨a, vs, d, task, _, rfl⟩
  · exact hpending
  · exact exec_keeps_pending (t := u) hpending hexec
  · exact hpending

/-! Of the device steps only EEP and RST reach the pending read (R29). -/

theorem txfStep_eerdPending {s t : State} (h : txfStep s = .next t) : t.eerdPending = s.eerdPending := by
  obtain ⟨base, d, _, _, _, _, _, _, _, rfl⟩ := txfStep_eq_next h
  rfl

theorem txcStep_eerdPending {s t : State} (h : txcStep s = .next t) : t.eerdPending = s.eerdPending := by
  rcases txcStep_outcome h with ⟨_, rfl⟩ | ⟨e, rest, m, _, _, rfl⟩ <;> rfl

theorem wireRxStep_eerdPending {p : Frame} {s t : State} (h : wireRxStep p s = .next t) :
    t.eerdPending = s.eerdPending := by
  rcases wireRxStep_outcome h with rfl | ⟨_, _, rfl⟩
  · rfl
  · simp only [wireRxAccept]
    split <;> rfl

theorem rxdStep_eerdPending {s t : State} (h : rxdStep s = .next t) : t.eerdPending = s.eerdPending := by
  rcases rxdStep_outcome h with ⟨_, rfl⟩ | ⟨q, rest, b, _, _, ⟨_, rfl⟩ | ⟨_, base, ds, icr, _, _, rfl⟩⟩ <;> rfl

/-- R89, R177: outside a reset only the EEP step ends a pending read. -/
theorem turnStep_keeps_pending {s t : State} {u : Turn} (hpending : s.eerdPending = true) (hreset : s.inReset = false)
    (hu : u ≠ .eep) (hen : turnEnabled s u = true) (h : turnStep s u = .next t) : t.eerdPending = true := by
  cases u with
  | host k => exact hostStep_keeps_pending hpending h
  | txf => exact (txfStep_eerdPending h).trans hpending
  | txc => exact (txcStep_eerdPending h).trans hpending
  | wireRx p => exact (wireRxStep_eerdPending h).trans hpending
  | rxd => exact (rxdStep_eerdPending h).trans hpending
  | eep => exact absurd rfl hu
  | rst => simp [turnEnabled, rstEnabled, hreset] at hen

/-! ## Runs (R168, R169) -/

/-- R168: a turn that goes on is idle, its agent not being enabled, or the enabled agent's step. -/
theorem runTurn_cases {s t : State} {u : Turn} (h : runTurn s u = .next t) :
    (turnEnabled s u = false ∧ t = s) ∨ (turnEnabled s u = true ∧ turnStep s u = .next t) := by
  unfold runTurn at h
  split at h
  · next hen => exact .inr ⟨hen, h⟩
  · next hen => cases h; exact .inl ⟨by simpa using hen, rfl⟩

theorem runTurn_keeps_pending {s t : State} {u : Turn} (hpending : s.eerdPending = true) (hreset : s.inReset = false)
    (hu : u ≠ .eep) (h : runTurn s u = .next t) : t.eerdPending = true := by
  rcases runTurn_cases h with ⟨_, rfl⟩ | ⟨hen, hstep⟩
  · exact hpending
  · exact turnStep_keeps_pending hpending hreset hu hen hstep

/-- R89: the EEP turn of an enabled agent leaves nothing pending and DONE = 1. -/
theorem runTurn_eep_completes {s t : State} (hen : turnEnabled s .eep = true) (h : runTurn s .eep = .next t) :
    t.eerdPending = false ∧ t.regs.eerdDone = true := by
  rw [runTurn, if_pos hen] at h
  cases h
  exact ⟨rfl, rfl⟩

/-- R169: in a fair run with EE_REQ = 0 EEP gets a turn with the read pending: with no such turn the read would stay
pending for ever, EEP would stay enabled, and fairness would give it one. -/
theorem fairRun_eep_turn {schedule : Nat → Turn} {states : Nat → State} {n : Nat} (hfair : fairRun schedule states)
    (hquiet : ∀ m, n ≤ m →
      (states m).faults = [] ∧ (states m).inReset = false ∧ (states m).regs.eeReq = false)
    (hpending : (states n).eerdPending = true) :
    ∃ m, n ≤ m ∧ schedule m = .eep ∧ (states m).eerdPending = true := by
  obtain ⟨hrun, _, _, _, _, _, heep⟩ := hfair
  by_contra hnone
  have hstill (m : Nat) (hm : n ≤ m) : (states m).eerdPending = true := by
    induction m, hm using Nat.le_induction with
    | base => exact hpending
    | succ m hm ih =>
      obtain ⟨_, hreset, _⟩ := hquiet m hm
      exact runTurn_keeps_pending ih hreset (fun hu => hnone ⟨m, hm, hu, ih⟩) (hrun m)
  have hturn : ∃ m, n ≤ m ∧ schedule m = .eep := heep n fun m hm => by
    obtain ⟨hfaults, hreset, hreq⟩ := hquiet m hm
    exact ⟨turnEnabled_eep.2 ⟨hfaults, hstill m hm, hreset⟩, hreq⟩
  obtain ⟨m, hm, hu⟩ := hturn
  exact hnone ⟨m, hm, hu, hstill m hm⟩

/-- Settles O19: fairness gives EEP a turn while the read is pending, and that turn completes it. -/
theorem pendingEepromReadCompletesInFairRun : Obligations.PendingEepromReadCompletesInFairRun := by
  intro schedule states n hfair hquiet hpending
  obtain ⟨m, hm, hu, hstill⟩ := fairRun_eep_turn hfair hquiet hpending
  obtain ⟨hfaults, hreset, _⟩ := hquiet m hm
  obtain ⟨hrun, _⟩ := hfair
  have hstep := hrun m
  rw [hu] at hstep
  exact ⟨m + 1, Nat.lt_succ_of_le hm,
    runTurn_eep_completes (turnEnabled_eep.2 ⟨hfaults, hstill, hreset⟩) hstep⟩

end Sys2Proof.Machine
end

section
/-! PROOFS. The transmit registers and the registers of both rings (42_transmit.md, 43_receive.md): what reads return,
what writes store, and when a write is refused (R92 to R105, R113 to R121). -/

namespace Sys2Proof.Machine

/-! ## TCTL (R92, R93) -/

/-- R92: TCTL cannot be read exactly while CT, COLD or RTLC is `⊥`. -/
theorem tctl_stored_eq_none {c : Tctl} : c.stored = none ↔ c.ct = none ∨ c.cold = none ∨ c.rtlc = none := by
  simp only [Tctl.stored, joinCells_eq_none, List.exists_mem_cons_iff, List.not_mem_nil, false_and, exists_false,
    or_false, placeCell_eq_none, reduceCtorEq, false_or]

/-- R92: once written, TCTL holds each field at its bits. -/
theorem tctl_stored_of_written {c : Tctl} {ct : BitVec 8} {cold : BitVec 10} {rtlc : BitVec 1} (hct : c.ct = some ct)
    (hcold : c.cold = some cold) (hrtlc : c.rtlc = some rtlc) :
    ∃ w, c.stored = some w ∧ w.extractLsb' 1 1 = BitVec.ofBool c.en ∧ w.extractLsb' 3 1 = BitVec.ofBool c.psp ∧
      w.extractLsb' 4 8 = ct ∧ w.extractLsb' 12 10 = cold ∧ w.extractLsb' 22 1 = BitVec.ofBool c.swxoff ∧
      w.extractLsb' 24 1 = rtlc := by
  refine ⟨placeBit 1 c.en ||| (placeBit 3 c.psp ||| (place 4 ct ||| (place 12 cold ||| (placeBit 22 c.swxoff |||
    (place 24 rtlc ||| 0#32))))), by rw [Tctl.stored, hct, hcold, hrtlc]; rfl, ?_⟩
  simp (disch := decide) only [placeBit, BitVec.extractLsb'_or, extractLsb'_place_same, extractLsb'_place_disjoint,
    BitVec.or_zero, BitVec.zero_or, and_self]

theorem exec_csrrTctl (s : State) : exec .csrrTctl s = readCells s 0x00400 s.regs.tctl.stored tctlX := rfl

/-- Settles O20: the read shows the stored fields outside the drawn bits; bit 22 decides between the outcomes of a
write. -/
theorem tctlReadAndWrite : Obligations.TctlReadAndWrite := by
  refine ⟨rfl, fun s v => ⟨writeKey 0x00400 rfl rfl, fun ct cold rtlc hct hcold hrtlc => ?written,
    fun hnone => ?unwritten, fun hset => if_pos hset, fun hclear => if_neg (Bool.eq_false_iff.1 hclear)⟩⟩
  case written =>
    obtain ⟨w, hstored, hen, hpsp, hwct, hwcold, hswxoff, hwrtlc⟩ := tctl_stored_of_written hct hcold hrtlc
    refine ⟨_, _, by rw [exec_csrrTctl, hstored, readCells_some], getLsbD_of_returnDrawn (by decide) hen,
      getLsbD_of_returnDrawn (by decide) hpsp, (extractLsb'_of_returnDrawn (by decide)).trans hwct,
      (extractLsb'_of_returnDrawn (by decide)).trans hwcold, getLsbD_of_returnDrawn (by decide) hswxoff,
      (extractLsb'_of_returnDrawn (by decide)).trans hwrtlc⟩
  case unwritten => rw [exec_csrrTctl, tctl_stored_eq_none.2 hnone, readCells]

/-! ## TIPG (R94, R95) -/

/-- R94: TIPG cannot be read exactly while one of its fields is `⊥`. -/
theorem tipg_stored_eq_none {c : Tipg} : c.stored = none ↔ c.ipgt = none ∨ c.ipgr1 = none ∨ c.ipgr2 = none := by
  simp only [Tipg.stored, joinCells_eq_none, List.exists_mem_cons_iff, List.not_mem_nil, false_and, exists_false,
    or_false, placeCell_eq_none]

/-- R94: once written, TIPG holds each field at its bits. -/
theorem tipg_stored_of_written (t r1 r2 : BitVec 10) :
    ∃ w, (⟨some t, some r1, some r2⟩ : Tipg).stored = some w ∧ w.extractLsb' 0 10 = t ∧ w.extractLsb' 10 10 = r1 ∧
      w.extractLsb' 20 10 = r2 := by
  refine ⟨place 0 t ||| (place 10 r1 ||| (place 20 r2 ||| 0#32)), rfl, ?_⟩
  simp (disch := decide) only [BitVec.extractLsb'_or, extractLsb'_place_same, extractLsb'_place_disjoint,
    BitVec.or_zero, BitVec.zero_or, and_self]

theorem exec_csrrTipg (s : State) : exec .csrrTipg s = readCells s 0x00410 s.regs.tipg.stored tipgX := rfl

/-- Settles O21: the three fields lie outside the drawn bits 31:30, and no value of them is refused. -/
theorem tipgReadAndWrite : Obligations.TipgReadAndWrite := by
  refine ⟨rfl, fun s v => ⟨writeKey 0x00410 rfl rfl, fun t r1 r2 htipg => ?written, fun hnone => ?unwritten, rfl⟩⟩
  case written =>
    obtain ⟨w, hstored, ht, hr1, hr2⟩ := tipg_stored_of_written t r1 r2
    exact ⟨_, _, by rw [exec_csrrTipg, htipg, hstored, readCells_some],
      (extractLsb'_of_returnDrawn (by decide)).trans ht, (extractLsb'_of_returnDrawn (by decide)).trans hr1,
      (extractLsb'_of_returnDrawn (by decide)).trans hr2⟩
  case unwritten => rw [exec_csrrTipg, tipg_stored_eq_none.2 hnone, readCells]

/-! ## Reads of ring registers (R96 to R104, R113 to R121) -/

/-- R96, R113: the low half of a ring's base, once written, reads back at bits 31:4. -/
theorem readCells_balStored_of_written (s : State) (o : Nat) {r : RingRegs} {lo : BitVec 28} (h : r.dbal = some lo) :
    ∃ v k, readCells s o r.balStored balX = .next { s with busData := v, drawn := k } ∧ v.extractLsb' 4 28 = lo := by
  have hstored : r.balStored = some (place 4 lo) := by rw [RingRegs.balStored, h]; rfl
  refine ⟨_, _, by rw [hstored, readCells_some], ?_⟩
  rw [extractLsb'_of_returnDrawn (by decide), extractLsb'_place_same lo (by decide)]

theorem readCells_balStored_of_unwritten (s : State) (o : Nat) {r : RingRegs} (h : r.dbal = none) :
    readCells s o r.balStored balX = .fault (.csrReadUndefined o) := by
  rw [RingRegs.balStored, placeCell_eq_none.2 h, readCells]

/-- R98, R115: a register without class X bits, once written, reads back whole. -/
theorem readCell_of_written (s : State) (o : Nat) {c : RegCell 32} {v : Word} (h : c = some v) :
    readCell s o c = .next { s with busData := v } := by
  rw [h]
  rfl

theorem readCell_of_unwritten (s : State) (o : Nat) {c : RegCell 32} (h : c = none) :
    readCell s o c = .fault (.csrReadUndefined o) := by
  rw [h, readCell]

/-- Settles O22: the two rings read their base halves by the same rules. -/
theorem ringBaseReads : Obligations.RingBaseReads :=
  ⟨rfl, rfl, rfl, rfl, fun s =>
    ⟨fun _ => readCells_balStored_of_written s 0x03800, readCells_balStored_of_unwritten s 0x03800,
      fun _ => readCell_of_written s 0x03804, readCell_of_unwritten s 0x03804,
      fun _ => readCells_balStored_of_written s 0x02800, readCells_balStored_of_unwritten s 0x02800,
      fun _ => readCell_of_written s 0x02804, readCell_of_unwritten s 0x02804⟩⟩

/-- R100, R117: a length read shows LEN at bits 19:7, which no draw reaches. -/
theorem len_of_returnDrawn (s : State) (r : RingRegs) :
    (s.returnDrawn r.lenStored lenX).busData.extractLsb' 7 13 = r.len := by
  rw [extractLsb'_of_returnDrawn (by decide), RingRegs.lenStored, extractLsb'_place_same r.len (by decide)]

/-- R102, R104, R119, R121: a head or tail read shows the index at bits 15:0, which no draw reaches. -/
theorem index_of_returnDrawn (s : State) (i : BitVec 16) :
    (s.returnDrawn (i.setWidth 32) indexX).busData.extractLsb' 0 16 = i := by
  rw [extractLsb'_of_returnDrawn (by decide), BitVec.extractLsb'_setWidth_of_le (by decide), BitVec.extractLsb'_eq_self]

/-- Settles O23: these registers are never `⊥`, so each read goes on. -/
theorem ringLengthAndIndexReads : Obligations.RingLengthAndIndexReads :=
  ⟨rfl, rfl, rfl, rfl, rfl, rfl, fun s =>
    ⟨⟨_, _, rfl, len_of_returnDrawn s _⟩, ⟨_, _, rfl, index_of_returnDrawn s _⟩, ⟨_, _, rfl, index_of_returnDrawn s _⟩,
      ⟨_, _, rfl, len_of_returnDrawn s _⟩, ⟨_, _, rfl, index_of_returnDrawn s _⟩,
      ⟨_, _, rfl, index_of_returnDrawn s _⟩⟩⟩

/-! ## Writes of a ring's base, length and head (R97 to R103, R114 to R120) -/

/-- 42_transmit.md: the TX side is not quiet while it is enabled or has an entry in flight. -/
theorem not_txQuiet_iff {s : State} : (!txQuiet s) = true ↔ s.regs.tctl.en = true ∨ s.txInflight ≠ [] := by
  simp only [txQuiet, Bool.not_and, Bool.not_not, Bool.or_eq_true, Bool.not_eq_true', List.isEmpty_eq_false_iff]

theorem txQuiet_of_idle {s : State} (hen : s.regs.tctl.en = false) (hidle : s.txInflight = []) :
    ¬(!txQuiet s) = true := by
  simp [txQuiet, hen, hidle]

/-- Settles O24: one guard decides for all three registers of a ring. -/
theorem ringBaseAndLengthWrites : Obligations.RingBaseAndLengthWrites := by
  refine fun s v => ⟨writeKey 0x03800 rfl rfl, writeKey 0x03804 rfl rfl, writeKey 0x03808 rfl rfl,
    fun hen hidle => ?txStored, fun hbusy => ?txRefused, writeKey 0x02800 rfl rfl, writeKey 0x02804 rfl rfl,
    writeKey 0x02808 rfl rfl, fun hen => ?rxStored, fun hen => ⟨if_pos hen, if_pos hen, if_pos hen⟩⟩
  case txStored =>
    have hquiet := txQuiet_of_idle hen hidle
    exact ⟨if_neg hquiet, if_neg hquiet, if_neg hquiet⟩
  case txRefused =>
    have hbusy := not_txQuiet_iff.2 hbusy
    exact ⟨if_pos hbusy, if_pos hbusy, if_pos hbusy⟩
  case rxStored =>
    have hoff := Bool.eq_false_iff.1 hen
    exact ⟨if_neg hoff, if_neg hoff, if_neg hoff⟩

/-- R103, R120: which head indices are out of range. -/
theorem RingRegs.headOutOfRange_iff {r : RingRegs} {i : BitVec 16} :
    r.headOutOfRange i.toNat = true ↔ i ≠ 0#16 ∧ r.slots ≤ i.toNat := by
  simp [RingRegs.headOutOfRange, ← BitVec.toNat_inj]

theorem RingRegs.head_inRange {r : RingRegs} {i : BitVec 16} (h : i = 0#16 ∨ i.toNat < r.slots) :
    ¬r.headOutOfRange i.toNat = true := by
  rw [headOutOfRange_iff]
  rintro ⟨hne, hge⟩
  exact h.elim hne (Nat.not_lt.2 hge)

/-- Settles O25: the enable first, then the range. -/
theorem ringHeadWrites : Obligations.RingHeadWrites := fun _ _ =>
  ⟨writeKey 0x03810 rfl rfl, writeKey 0x02810 rfl rfl,
    fun hbusy => if_pos (not_txQuiet_iff.2 hbusy),
    fun hen hidle hne hge =>
      (if_neg (txQuiet_of_idle hen hidle)).trans (if_pos (RingRegs.headOutOfRange_iff.2 ⟨hne, hge⟩)),
    fun hen hidle hin => (if_neg (txQuiet_of_idle hen hidle)).trans (if_neg (RingRegs.head_inRange hin)),
    fun hen => if_pos hen,
    fun hen hne hge => (if_neg (Bool.eq_false_iff.1 hen)).trans (if_pos (RingRegs.headOutOfRange_iff.2 ⟨hne, hge⟩)),
    fun hen hin => (if_neg (Bool.eq_false_iff.1 hen)).trans (if_neg (RingRegs.head_inRange hin))⟩

/-! ## Writes of a tail (R105, R122) -/

/-- R10: ring distances compare as the remainders do. -/
theorem ringDist_lt_ringDist_iff {a b h n : Nat} (hn : 0 < n) :
    ringDist a h n < ringDist b h n ↔ ((a : Int) - h) % n < ((b : Int) - h) % n := by
  rw [← ringDist_cast a h hn, ← ringDist_cast b h hn, Nat.cast_lt]

section
variable {r : RingRegs} {t : Nat} {outOfRange : Nat → Fault} {retract : Nat → Nat → Fault}

/-- R105, R122: a ring without slots takes no tail but 0. -/
theorem RingRegs.tailFault_of_empty (hn : r.slots = 0) (ht : t ≠ 0) :
    r.tailFault t outOfRange retract = some (outOfRange t) := by
  rw [tailFault, if_pos hn, if_pos ht]

theorem RingRegs.tailFault_of_ge (hn : r.slots ≠ 0) (ht : r.slots ≤ t) :
    r.tailFault t outOfRange retract = some (outOfRange t) := by
  rw [tailFault, if_neg hn, if_pos ht]

/-- R105, R122: a tail nearer to the head than the old one takes slots back. -/
theorem RingRegs.tailFault_of_nearer (hn : r.slots ≠ 0) (ht : t < r.slots)
    (hnear : ((t : Int) - r.head.toNat) % r.slots < ((r.tail.toNat : Int) - r.head.toNat) % r.slots) :
    r.tailFault t outOfRange retract = some (retract r.tail.toNat t) := by
  rw [tailFault, if_neg hn, if_neg (Nat.not_le.2 ht),
    if_pos ((ringDist_lt_ringDist_iff (Nat.pos_of_ne_zero hn)).2 hnear)]

/-- R105, R122: any other tail in the ring is accepted. -/
theorem RingRegs.tailFault_of_not_nearer (hn : r.slots ≠ 0) (ht : t < r.slots)
    (hfar : ((r.tail.toNat : Int) - r.head.toNat) % r.slots ≤ ((t : Int) - r.head.toNat) % r.slots) :
    r.tailFault t outOfRange retract = none :=
  tailFault_eq_none.2 (.inr ⟨hn, ht,
    Nat.not_lt.1 fun hlt => Int.not_lt.2 hfar ((ringDist_lt_ringDist_iff (Nat.pos_of_ne_zero hn)).1 hlt)⟩)

end

theorem exec_csrwTdt_of_fault {s : State} {v : Word} {f : Fault}
    (h : s.regs.tx.tailFault (v.extractLsb' 0 16).toNat .txTailOutOfRange .txTailRetract = some f) :
    exec (.csrwTdt v) s = .fault f := by
  simp only [exec, execCsrwTdt, field, h]

theorem exec_csrwTdt_of_accepted {s : State} {v : Word}
    (h : s.regs.tx.tailFault (v.extractLsb' 0 16).toNat .txTailOutOfRange .txTailRetract = none) :
    exec (.csrwTdt v) s =
      .next { s with regs := { s.regs with tx := { s.regs.tx with tail := v.extractLsb' 0 16 } } } := by
  simp only [exec, execCsrwTdt, field, h, State.setTx]

/-- Settles O26: `tailFault` decides the write, by the clauses of R105. -/
theorem tdtWritePublishes : Obligations.TdtWritePublishes := by
  refine fun s v n t h old => ⟨writeKey 0x03818 rfl rfl, ?_⟩
  rintro rfl rfl rfl rfl
  refine ⟨fun hn ht => ?emptyNonzero, fun hn ht => ?emptyZero, fun hn ht => ?beyond, fun hn ht hnear => ?nearer,
    fun hn ht hfar => ?accepted⟩
  case emptyNonzero => exact exec_csrwTdt_of_fault (RingRegs.tailFault_of_empty hn ht)
  case emptyZero =>
    have hv : v.extractLsb' 0 16 = 0#16 := BitVec.eq_of_toNat_eq ht
    rw [exec_csrwTdt_of_accepted (tailFault_eq_none.2 (.inl ⟨hn, ht⟩)), hv]
  case beyond => exact exec_csrwTdt_of_fault (RingRegs.tailFault_of_ge hn ht)
  case nearer => exact exec_csrwTdt_of_fault (RingRegs.tailFault_of_nearer hn ht hnear)
  case accepted => exact exec_csrwTdt_of_accepted (RingRegs.tailFault_of_not_nearer hn ht hfar)

end Sys2Proof.Machine
end

section
/-! PROOFS. The TX engine of 42_transmit.md: the TXF step (R106), the TXC step (R107), and what they do to the ring
(R108, R109). -/

namespace Sys2Proof.Machine

/-! ## The ring base (R26, R148) -/

theorem RingRegs.base_of_written {r : RingRegs} {lo : BitVec 28} {hi : BitVec 32} (hlo : r.dbal = some lo)
    (hhi : r.dbah = some hi) : r.base = some (hi.toNat * 2 ^ 32 + lo.toNat * 16) := by
  simp only [RingRegs.base, hlo, hhi]

theorem RingRegs.base_of_unwritten {r : RingRegs} (h : r.dbal = none ∨ r.dbah = none) : r.base = none := by
  rcases h with h | h
  · cases hhi : r.dbah <;> simp only [RingRegs.base, h, hhi]
  · simp only [RingRegs.base, h]

/-! ## The TXF step (R106) -/

/-- R106, R164: when the TXF turn is enabled. -/
theorem turnEnabled_txf {s : State} :
    turnEnabled s .txf = true ↔
      s.faults = [] ∧ s.inReset = false ∧ s.regs.tctl.en = true ∧ 0 < s.regs.tx.slots ∧
      s.regs.tx.head.toNat < s.regs.tx.slots ∧ s.regs.tx.tail.toNat < s.regs.tx.slots ∧
      s.regs.tx.head ≠ s.regs.tx.tail ∧ s.txInflight.length < s.params.txInflightMax := by
  simp [turnEnabled, txfEnabled, RingRegs.usable, and_assoc]

/-- R62: the CMD bytes the TX engine refuses. -/
theorem txCmdRefused_iff {cmd : Byte} :
    txCmdRefused cmd = true ↔ cmd.getLsbD 0 = false ∨ cmd.getLsbD 2 = true ∨ cmd.getLsbD 4 = true ∨
      cmd.getLsbD 5 = true ∨ cmd.getLsbD 6 = true := by
  simp only [txCmdRefused, Bool.or_eq_true, Bool.not_eq_true', or_assoc]

/-- R37: an access that ends beyond MEM_BYTES. -/
theorem not_dmaInRange {s : State} {a n : Nat} (hn : 0 < n) (h : s.params.memBytes < a + n) :
    (!dmaInRange s a n) = true := by
  rw [Bool.not_eq_true', Bool.eq_false_iff, ne_eq, dmaInRange_eq]
  omega

theorem dmaInRange_of_le {s : State} {a n : Nat} (h : a + n ≤ s.params.memBytes) : ¬(!dmaInRange s a n) = true := by
  rw [Bool.not_eq_true', Bool.not_eq_false, dmaInRange_eq]
  exact .inr h

theorem txfStep_of_base_undefined {s : State} (h : s.regs.tx.base = none) :
    txfStep s = .fault (.dmaRegUndefined .tx) := by
  simp only [txfStep, h]

/-- R106: the checks of the descriptor at the head of a ring with a base, in their order, and the fetch. -/
theorem txfStep_of_base {s : State} {base da : Nat} {d : TxDesc} (hbase : s.regs.tx.base = some base)
    (hda : da = descAddr base s.regs.tx.head.toNat) (hd : d = readTxDesc s.mem da) :
    txfStep s =
      if !dmaInRange s da 16 then .fault (.dmaOutOfRange .txf da 16)
      else if txCmdRefused d.cmd then .fault (.txDescUnsupported s.regs.tx.head.toNat d.cmd)
      else if d.len.toNat = 0 ∨ Config.txDescMaxLen < d.len.toNat then
        .fault (.txLengthInvalid s.regs.tx.head.toNat d.len.toNat)
      else if !dmaInRange s d.addr.toNat d.len.toNat then .fault (.dmaOutOfRange .txf d.addr.toNat d.len.toNat)
      else .next { s.setTx (s.regs.tx.advance 1) with
        txInflight := s.txInflight ++ [fetchedEntry s s.regs.tx.head.toNat da d] } := by
  subst hda hd
  simp only [txfStep, hbase]

/-- Settles O32: each check is reached once the ones before it passed. -/
theorem txfFetchesOneDescriptor : Obligations.TxfFetchesOneDescriptor := by
  refine fun s => ⟨turnEnabled_txf, fun hnone => txfStep_of_base_undefined (RingRegs.base_of_unwritten hnone), ?_⟩
  rintro lo hi slot da addr len cmd sta hlo hhi rfl hda rfl rfl rfl rfl
  have hstep := txfStep_of_base (RingRegs.base_of_written hlo hhi) hda rfl
  simp only [readTxDesc_addr_toNat, readTxDesc_len_toNat] at hstep
  refine ⟨fun hout => hstep.trans (if_pos (not_dmaInRange (by decide) hout)), fun hin => ?descriptor⟩
  replace hstep := hstep.trans (if_neg (dmaInRange_of_le hin))
  refine ⟨fun hcmd => hstep.trans (if_pos (txCmdRefused_iff.2 hcmd)), fun h0 h2 h4 h5 h6 => ?command⟩
  have hcmd : ¬txCmdRefused (Memory.read s.mem (da + 11)) = true := by
    simp only [txCmdRefused, h0, h2, h4, h5, h6]
    decide
  replace hstep := hstep.trans (if_neg hcmd)
  refine ⟨fun hlen => hstep.trans (if_pos hlen), fun hmin hmax => ?length⟩
  have hlen : ¬(Memory.readLE s.mem (da + 8) 2 = 0 ∨ 16288 < Memory.readLE s.mem (da + 8) 2) := by omega
  replace hstep := hstep.trans (if_neg hlen)
  refine ⟨fun hbuf => hstep.trans (if_pos (not_dmaInRange hmin hbuf)), fun hbuf => ?fetch⟩
  case fetch =>
    rw [turnStep, hstep, if_neg (dmaInRange_of_le hbuf)]
    simp only [fetchedEntry, readTxDesc_addr_toNat, readTxDesc_len_toNat]
    rfl

/-! ## The TXC step (R107) -/

/-- R107, R164: when the TXC turn is enabled. -/
theorem turnEnabled_txc {s : State} :
    turnEnabled s .txc = true ↔ s.faults = [] ∧ s.inReset = false ∧ s.txInflight ≠ [] := by
  simp [turnEnabled, txcEnabled]

/-- R107: memory after the completion of an entry: with RS = 1 byte 12 of its descriptor is written. -/
def writeBackMem (m : Memory) (e : TxEntry) : Memory :=
  if e.rs then Memory.write m (e.daddr.toNat + 12) (staWriteBack e.staHi) else m

theorem read_writeBackMem {m : Memory} (h : Memory.wf m = true) (e : TxEntry) (x : Nat) :
    Memory.read (writeBackMem m e) x =
      if e.rs = true ∧ x = e.daddr.toNat + 12 then staWriteBack e.staHi else Memory.read m x := by
  cases hrs : e.rs with
  | false => simp [writeBackMem, hrs]
  | true => simp [writeBackMem, hrs, Memory.read_write h]

section
variable {s : State} {e : TxEntry} {rest : List TxEntry} (hcons : s.txInflight = e :: rest)
include hcons

theorem txcStep_of_writeBack_beyond (hrs : e.rs = true) (hda : s.params.memBytes < e.daddr.toNat + 13) :
    txcStep s = .fault (.dmaOutOfRange .txc (e.daddr.toNat + 12) 1) := by
  simp only [txcStep, hcons, hrs, if_true]
  exact if_pos (not_dmaInRange Nat.one_pos hda)

/-- R107: the completion of an entry whose write-back, if there is one, lies inside memory. -/
theorem txcStep_of_writeBack_inRange (hda : e.rs = true → e.daddr.toNat + 13 ≤ s.params.memBytes) :
    txcStep s = .next { emitEntry { s with txInflight := rest } e with
      mem := writeBackMem s.mem e, regs := { s.regs with icr := txcCauses s e rest } } := by
  simp only [txcStep, hcons, writeBackMem]
  cases hrs : e.rs with
  | false => rfl
  | true => exact if_neg (dmaInRange_of_le (hda hrs))

end

/-- R107: the causes of a completion, as bits 0 and 1 of ICR. -/
theorem txcCauses_eq (s : State) (e : TxEntry) (rest : List TxEntry) :
    txcCauses s e rest = s.regs.icr ||| (if e.rs then 0x1#17 else 0x0#17) |||
      (if rest = [] ∧ s.regs.tx.head = s.regs.tx.tail then 0x2#17 else 0x0#17) := by
  have hdone : (rest.isEmpty && s.regs.tx.head == s.regs.tx.tail) = true ↔
      rest = [] ∧ s.regs.tx.head = s.regs.tx.tail := by simp
  simp only [txcCauses, setCauseIf, hdone, setCause, Cause.mask, Cause.bit]
  split <;> split <;> simp

/-- R107: PSP = 1 pads a frame shorter than 60 bytes to 60. -/
theorem padLength_eq (psp : Bool) (f : Frame) :
    padLength psp f = if psp = true ∧ f.length < 60 then 60 - f.length else 0 := by
  cases psp with
  | false => simp [padLength]
  | true =>
    simp only [padLength, Config.minFrame, if_true, true_and]
    split <;> omega

/-- Settles O33: the pad is the draws of `emitEntry`, and the one byte written is the write-back. -/
theorem txcCompletesOldestDescriptor : Obligations.TxcCompletesOldestDescriptor := by
  refine fun s => ⟨turnEnabled_txc, fun e rest hcons => ⟨txcStep_of_writeBack_beyond hcons, fun hda hwf => ?_⟩⟩
  have hstep := txcStep_of_writeBack_inRange hcons hda
  rw [txcCauses_eq] at hstep
  exact ⟨drawBytes s.drawn (padLength s.regs.tctl.psp e.frame), _, writeBackMem s.mem e,
    by rw [drawBytes_length, padLength_eq], hstep, read_writeBackMem hwf e⟩

/-- Settles O34: what the fetch checked of the descriptor holds of every entry in flight. -/
theorem txcNeverFaultsInLegalStates : Obligations.TxcNeverFaultsInLegalStates := by
  intro s hlegal hen
  obtain ⟨_, _, hbusy⟩ := turnEnabled_txc.1 hen
  obtain ⟨e, rest, hcons⟩ := List.exists_cons_of_ne_nil hbusy
  obtain ⟨_, hentries⟩ := hlegal.inflight
  obtain ⟨_, _, _, hda, _⟩ := hentries e (by simp [hcons])
  exact ⟨_, txcStep_of_writeBack_inRange hcons fun _ => by omega⟩

/-! ## The ring (R108, R109) -/

@[simp] theorem RingRegs.window_length (r : RingRegs) : r.window.length = r.owned := by
  simp [RingRegs.window]

/-- R109: the window leaves at least one slot of a ring to software. -/
theorem RingRegs.owned_lt_slots {r : RingRegs} (hn : 0 < r.slots) : r.owned < r.slots := by
  rw [RingRegs.owned, if_neg hn.ne']
  exact ringDist_lt _ _ hn

/-- Settles O35: the window holds the ring distance from head to tail, which is below the ring size; the head itself
is at distance 0 from the head. -/
theorem txRingHoldsAllButOneSlot : Obligations.TxRingHoldsAllButOneSlot := by
  rintro s n rfl hn
  have howned := RingRegs.owned_cast (r := s.regs.tx) hn
  have hlt := RingRegs.owned_lt_slots (r := s.regs.tx) hn
  refine ⟨?count, ?bound, fun hfull hhead v hv => ?refused⟩
  case count =>
    rw [txOwnedSlots, List.length_append, List.length_map, RingRegs.window_length, Nat.cast_add, howned]
    rfl
  case bound =>
    change _ % (s.regs.tx.slots : Int) ≤ (s.regs.tx.slots : Int) - 1
    omega
  case refused =>
    have hsame : ((s.regs.tx.head.toNat : Int) - s.regs.tx.head.toNat) % s.regs.tx.slots = 0 := by simp
    have hslots : 8 ≤ s.regs.tx.slots := by unfold RingRegs.slots; omega
    refine exec_csrwTdt_of_fault ?_
    rw [hv]
    refine RingRegs.tailFault_of_nearer hn.ne' hhead ?_
    change _ % (s.regs.tx.slots : Int) = (s.regs.tx.slots : Int) - 1 at hfull
    omega

/-- R106: with the head and the tail in the ring and apart, the window holds a slot. -/
theorem RingRegs.owned_pos {r : RingRegs} (hhead : r.head.toNat < r.slots) (htail : r.tail.toNat < r.slots)
    (hne : r.head ≠ r.tail) : 0 < r.owned := by
  have hne : r.head.toNat ≠ r.tail.toNat := fun h => hne (BitVec.eq_of_toNat_eq h)
  rw [RingRegs.owned, if_neg (by omega), ringDist_eq htail hhead]
  split <;> omega

/-- R106: an advance by one slot takes the head slot out of a window that is not empty. -/
theorem RingRegs.window_eq_head_cons {r : RingRegs} (hhead : r.head.toNat < r.slots) (howned : 0 < r.owned) :
    r.window = r.head.toNat :: (r.advance 1).window := by
  rw [RingRegs.window_eq_append_advance (k := 1) (by omega) howned]
  simp [Nat.mod_eq_of_lt hhead]

/-- Settles O36: the ring's window loses its first slot, and the queue gains it at its end. -/
theorem fetchMovesHeadSlotIntoFlight : Obligations.FetchMovesHeadSlotIntoFlight := by
  intro s t hen hx
  obtain ⟨_, _, _, _, hhead, htail, hne, _⟩ := turnEnabled_txf.1 hen
  obtain ⟨base, d, _, _, _, _, _, _, _, rfl⟩ := txfStep_eq_next hx
  have hwindow := RingRegs.window_eq_head_cons hhead (RingRegs.owned_pos hhead htail hne)
  have hinflight : (s.txInflight ++ [fetchedEntry s s.regs.tx.head.toNat (descAddr base s.regs.tx.head.toNat) d]).map
      (fun e => e.slot.toNat) = s.txInflight.map (fun e => e.slot.toNat) ++ [s.regs.tx.head.toNat] := by
    simp [fetchedEntry]
  refine ⟨hwindow, hinflight, ?_⟩
  rw [txOwnedSlots, txOwnedSlots, hwindow, List.cons_append, hinflight, ← List.append_assoc]
  exact List.perm_append_singleton _ _

/-- R147: an advance by no slot leaves a head that lies in the ring. -/
theorem RingRegs.advance_zero {r : RingRegs} (hhead : r.head.toNat < r.slots) : r.advance 0 = r := by
  simp [RingRegs.advance, Nat.mod_eq_of_lt hhead]

/-- R147: advances add up. -/
theorem RingRegs.advance_advance {r : RingRegs} (hn : 0 < r.slots) (j k : Nat) :
    (r.advance j).advance k = r.advance (j + k) := by
  rw [RingRegs.advance, RingRegs.advance_head j hn, RingRegs.advance_slots, Nat.mod_add_mod, Nat.add_assoc]
  rfl

/-- R108, R133: `k` advances of one slot are one advance of `k` slots. -/
theorem RingRegs.iterate_advance_one {r : RingRegs} (hhead : r.head.toNat < r.slots) (k : Nat) :
    (fun q : RingRegs => q.advance 1)^[k] r = r.advance k := by
  induction k with
  | zero => exact (RingRegs.advance_zero hhead).symm
  | succ k ih => rw [Function.iterate_succ_apply', ih, RingRegs.advance_advance (by omega)]

/-- Settles O37: a full round is an advance by the ring size, which is none modulo the ring size. -/
theorem headReturnsAfterFullRound : Obligations.HeadReturnsAfterFullRound := by
  intro r k hhead
  rw [RingRegs.iterate_advance_one hhead, RingRegs.iterate_advance_one hhead]
  refine ⟨RingRegs.advance_head k (Nat.zero_lt_of_lt hhead), ?_⟩
  calc r.advance r.slots
      = r.advance 0 := by simp [RingRegs.advance]
    _ = r := RingRegs.advance_zero hhead

end Sys2Proof.Machine
end

section
/-! PROOFS. What the TX steps leave of the RX side and the RX steps of the TX side (R106, R107, R131, R132), and what
moves a tail (R104, R121). -/

namespace Sys2Proof.Machine

/-! ## The two sides -/

/-- What a TX step may change: of the registers the TX head and the causes, and of the rest of the state the queue in
flight, memory, the link output and the count of draws. -/
def TxSideOutcome (s t : State) : Prop :=
  ∃ (head : BitVec 16) (icr : BitVec 17) (es : List TxEntry) (m : Memory) (out : List WireFrame) (k : Nat),
    t = { s with
      regs := { s.regs with tx := { s.regs.tx with head := head }, icr := icr }
      txInflight := es, mem := m, wireOut := out, drawn := k }

/-- What an RX step may change: of the registers the RX head and the causes, and of the rest of the state the FIFO,
memory and the count of draws. -/
def RxSideOutcome (s t : State) : Prop :=
  ∃ (head : BitVec 16) (icr : BitVec 17) (qs : List Frame) (m : Memory) (k : Nat),
    t = { s with
      regs := { s.regs with rx := { s.regs.rx with head := head }, icr := icr }
      rxFifo := qs, mem := m, drawn := k }

theorem txfStep_txSide {s t : State} (h : txfStep s = .next t) : TxSideOutcome s t := by
  obtain ⟨base, d, _, _, _, _, _, _, _, rfl⟩ := txfStep_eq_next h
  exact ⟨_, _, _, _, _, _, rfl⟩

theorem txcStep_txSide {s t : State} (h : txcStep s = .next t) : TxSideOutcome s t := by
  rcases txcStep_outcome h with ⟨_, rfl⟩ | ⟨e, rest, m, _, _, rfl⟩ <;> exact ⟨_, _, _, _, _, _, rfl⟩

theorem wireRxStep_rxSide {p : Frame} {s t : State} (h : wireRxStep p s = .next t) : RxSideOutcome s t := by
  rcases wireRxStep_outcome h with rfl | ⟨_, _, rfl⟩
  · exact ⟨_, _, _, _, _, rfl⟩
  · simp only [wireRxAccept]
    split <;> exact ⟨_, _, _, _, _, rfl⟩

theorem rxdStep_rxSide {s t : State} (h : rxdStep s = .next t) : RxSideOutcome s t := by
  rcases rxdStep_outcome h with ⟨_, rfl⟩ | ⟨q, rest, b, _, _, ⟨_, rfl⟩ | ⟨_, base, ds, icr, _, _, rfl⟩⟩ <;>
    exact ⟨_, _, _, _, _, rfl⟩

/-- Settles O44: what a step of either side may change names no field of the other. -/
theorem enginesLeaveTheOtherRingAlone : Obligations.EnginesLeaveTheOtherRingAlone := by
  refine fun s t p => ⟨fun h => ?tx, fun h => ?rx⟩
  case tx =>
    obtain ⟨_, _, _, _, _, _, rfl⟩ : TxSideOutcome s t := h.elim txfStep_txSide txcStep_txSide
    exact ⟨rfl, rfl, rfl, rfl, rfl, rfl, rfl, rfl, rfl, rfl, rfl, rfl, rfl, rfl⟩
  case rx =>
    obtain ⟨_, _, _, _, _, rfl⟩ : RxSideOutcome s t := h.elim wireRxStep_rxSide rxdStep_rxSide
    exact ⟨rfl, rfl, rfl, rfl, rfl, rfl, rfl, rfl, rfl, rfl, rfl, rfl, rfl, rfl, rfl⟩

/-! ## What moves a tail -/

/-- R69: what a transaction that passed the checks runs is the instruction of its register, direction and value. -/
theorem instr_of_checkTransaction {x : Transaction} {i : Instr} (h : checkTransaction x = .ok i) :
    i.reg.offset = x.offset ∧ i.data = if x.write then some x.value else none := by
  simp only [checkTransaction] at h
  split at h
  · cases h
  split at h
  · cases h
  · next hoffset =>
    have hoffset : x.offset < 0x20000 := Nat.not_le.1 hoffset
    split at h
    · cases h
    split at h
    · cases h
    · next hwords =>
      cases h
      obtain ⟨hword, hdata⟩ := Laws.builtFrom_of_decodeWords hwords
      have hkey : transactionKey x = i.key := by
        simpa using congrArg (BitVec.extractLsb' 0 18) hword
      have hdir : x.write = i.data.isSome := by
        rw [← Laws.keyWrites_key, ← hkey, transactionKey, Laws.keyWrites_ofNat hoffset]
      refine ⟨offset_eq_of_key_eq hoffset hkey, ?_⟩
      cases hi : i.data with
      | none => simp [hdir, hi]
      | some v => simpa [hdir, hi] using hdata

/-- Task `k` of `s` is about to issue the transaction `x`. -/
def NextTransaction (s : State) (k : Nat) (x : Transaction) : Prop :=
  ∃ task f, s.tasks[k]? = some task ∧ task.nextForm = some f ∧ formTransaction task.temps f = some x

/-- R69: a CSR form that goes on is held, or passed the checks and ran its instruction. -/
theorem hostCsr_eq_next {k : Nat} {task : Task} {f : Form} {x : Transaction} {s t : State}
    (h : hostCsr k task f x s = .next t) :
    t = s ∨ ∃ i u task', checkTransaction x = .ok i ∧ exec i s = .next u ∧ t = u.setTask k task' := by
  simp only [hostCsr] at h
  split at h
  · cases h
  · next i hcheck =>
    split at h
    · cases h; exact .inl rfl
    · obtain ⟨u, hu, hn⟩ := andThen_eq_next.1 h
      cases hn
      exact .inr ⟨i, u, _, hcheck, hu, rfl⟩

/-- R68: a form that issues no transaction touches memory, the count of draws and its task at most. -/
theorem hostForm_localOutcome {k : Nat} {task : Task} {f : Form} {s t : State}
    (hnone : formTransaction task.temps f = none) (h : hostForm k task s f = .next t) : LocalOutcome k s t := by
  cases f with
  | csrr | csrw => cases hnone
  | load => exact hostLoad_outcome h
  | store => exact hostStore_outcome h
  | label | assign | halt | fatal | ret => exact localOutcome_setTask s.drawn h
  | beq =>
    simp only [hostForm] at h
    split at h
    · exact hostJump_outcome h
    · exact localOutcome_setTask s.drawn h
  | bne =>
    simp only [hostForm] at h
    split at h
    · exact localOutcome_setTask s.drawn h
    · exact hostJump_outcome h

/-- R47: a host step changes registers only by running the instruction of the transaction that the task issues. -/
theorem hostStep_regs {k : Nat} {s t : State} (h : hostStep k s = .next t) :
    t.regs = s.regs ∨
      ∃ x i u, NextTransaction s k x ∧ checkTransaction x = .ok i ∧ exec i s = .next u ∧ t.regs = u.regs := by
  unfold hostStep at h
  split at h
  · cases h; exact .inl rfl
  · next task htask =>
    split at h
    · cases h; exact .inl rfl
    · next f hf =>
      cases hx : formTransaction task.temps f with
      | none =>
        obtain ⟨a, vs, d, task', _, rfl⟩ := hostForm_localOutcome hx h
        exact .inl rfl
      | some x =>
        rw [hostForm_of_transaction hx] at h
        rcases hostCsr_eq_next h with rfl | ⟨i, u, task', hcheck, hu, rfl⟩
        · exact .inl rfl
        · exact .inr ⟨x, i, u, ⟨task, f, htask, hf, hx⟩, hcheck, hu, rfl⟩

/-- R71: of the register rules only the write of its own register moves a tail. -/
theorem exec_tails {i : Instr} {s u : State} (h : exec i s = .next u) :
    (u.regs.tx.tail = s.regs.tx.tail ∨ ∃ v, i = .csrwTdt v ∧ u.regs.tx.tail = v.extractLsb' 0 16) ∧
      (u.regs.rx.tail = s.regs.rx.tail ∨ ∃ v, i = .csrwRdt v ∧ u.regs.rx.tail = v.extractLsb' 0 16) := by
  cases hdata : i.data with
  | none =>
    obtain ⟨v, k, c, rfl⟩ := exec_read_outcome hdata h
    exact ⟨.inl rfl, .inl rfl⟩
  | some w =>
    cases i with
    | csrwTdt v =>
      simp only [exec, execCsrwTdt] at h
      split at h <;> cases h
      exact ⟨.inr ⟨v, rfl, rfl⟩, .inl rfl⟩
    | csrwRdt v =>
      simp only [exec, execCsrwRdt] at h
      split at h <;> cases h
      exact ⟨.inl rfl, .inr ⟨v, rfl, rfl⟩⟩
    | csrwStatus | csrwEecd | csrwIcr | csrwIcs | csrwIms | csrwImc | csrwTipg | csrwRal | csrwMta =>
      cases h
      exact ⟨.inl rfl, .inl rfl⟩
    | csrwEerd =>
      simp only [exec, execCsrwEerd] at h
      split at h <;> cases h <;> exact ⟨.inl rfl, .inl rfl⟩
    | csrwCtrl | csrwTctl | csrwRah | csrwTdbal | csrwTdbah | csrwTdlen | csrwRdbal | csrwRdbah | csrwRdlen =>
      obtain ⟨_, rfl⟩ := guard_eq_next.1 h
      exact ⟨.inl rfl, .inl rfl⟩
    | csrwRctl | csrwTdh | csrwRdh =>
      obtain ⟨_, _, rfl⟩ := guards_eq_next.1 h
      exact ⟨.inl rfl, .inl rfl⟩
    | _ => cases hdata

/-- R104, R121: what the step of a turn `u` may do to the tail at a register offset: leave it, reset it, or take the
low 16 bits of a host write of that register. -/
def TailOutcome (s : State) (u : Turn) (offset : Nat) (old new : BitVec 16) : Prop :=
  new = old ∨ u = .rst ∨ ∃ k x, u = .host k ∧ NextTransaction s k x ∧ x.write = true ∧ x.offset = offset ∧
    new = x.value.extractLsb' 0 16

theorem tailOutcome_of_exec {s : State} {k offset : Nat} {x : Transaction} {i : Instr} {write : Word → Instr}
    {old new : BitVec 16} (hx : NextTransaction s k x) (hcheck : checkTransaction x = .ok i)
    (hwrite : ∀ v, (write v).reg.offset = offset ∧ (write v).data = some v)
    (h : new = old ∨ ∃ v, i = write v ∧ new = v.extractLsb' 0 16) : TailOutcome s (.host k) offset old new := by
  rcases h with hsame | ⟨v, rfl, rfl⟩
  · exact .inl hsame
  · obtain ⟨hoffset, hdata⟩ := instr_of_checkTransaction hcheck
    obtain ⟨hreg, hvalue⟩ := hwrite v
    rw [hvalue] at hdata
    cases hdir : x.write with
    | false => simp [hdir] at hdata
    | true =>
      obtain rfl : v = x.value := by simpa [hdir] using hdata
      exact .inr (.inr ⟨k, x, rfl, hx, hdir, hoffset.symm.trans hreg, rfl⟩)

theorem hostStep_tails {k : Nat} {s t : State} (h : hostStep k s = .next t) :
    TailOutcome s (.host k) 0x03818 s.regs.tx.tail t.regs.tx.tail ∧
      TailOutcome s (.host k) 0x02818 s.regs.rx.tail t.regs.rx.tail := by
  rcases hostStep_regs h with hsame | ⟨x, i, u, hx, hcheck, hu, hregs⟩
  · exact ⟨.inl (by rw [hsame]), .inl (by rw [hsame])⟩
  · obtain ⟨htx, hrx⟩ := exec_tails hu
    rw [hregs]
    exact ⟨tailOutcome_of_exec hx hcheck (write := .csrwTdt) (fun _ => ⟨rfl, rfl⟩) htx,
      tailOutcome_of_exec hx hcheck (write := .csrwRdt) (fun _ => ⟨rfl, rfl⟩) hrx⟩

/-- R106, R107, R131, R132: the engines advance the heads and leave the tails to the host. -/
theorem turnStep_tails {s t : State} {u : Turn} (h : turnStep s u = .next t) :
    TailOutcome s u 0x03818 s.regs.tx.tail t.regs.tx.tail ∧ TailOutcome s u 0x02818 s.regs.rx.tail t.regs.rx.tail := by
  cases u with
  | host k => exact hostStep_tails h
  | txf =>
    obtain ⟨_, _, _, _, _, _, rfl⟩ := txfStep_txSide h
    exact ⟨.inl rfl, .inl rfl⟩
  | txc =>
    obtain ⟨_, _, _, _, _, _, rfl⟩ := txcStep_txSide h
    exact ⟨.inl rfl, .inl rfl⟩
  | wireRx p =>
    obtain ⟨_, _, _, _, _, rfl⟩ := wireRxStep_rxSide h
    exact ⟨.inl rfl, .inl rfl⟩
  | rxd =>
    obtain ⟨_, _, _, _, _, rfl⟩ := rxdStep_rxSide h
    exact ⟨.inl rfl, .inl rfl⟩
  | eep => cases h; exact ⟨.inl rfl, .inl rfl⟩
  | rst => exact ⟨.inr (.inl rfl), .inr (.inl rfl)⟩

theorem TailOutcome.of_ne {s : State} {u : Turn} {offset : Nat} {old new : BitVec 16}
    (h : TailOutcome s u offset old new) (hne : new ≠ old) :
    u = .rst ∨ ∃ k task f x, u = .host k ∧ s.tasks[k]? = some task ∧ task.nextForm = some f ∧
      formTransaction task.temps f = some x ∧ x.write = true ∧ x.offset = offset ∧
      new = x.value.extractLsb' 0 16 := by
  rcases h with hsame | hrst | ⟨k, x, hu, ⟨task, f, htask, hf, hx⟩, hwrite, hoffset, hnew⟩
  · exact absurd hsame hne
  · exact .inl hrst
  · exact .inr ⟨k, task, f, x, hu, htask, hf, hx, hwrite, hoffset, hnew⟩

/-- Settles O59: the step is idle, or the step of the agent whose turn is first in the agenda. -/
theorem tailsMoveOnlyByHostWrites : Obligations.TailsMoveOnlyByHostWrites := by
  intro s t u rest hagenda hstep
  obtain ⟨_, ⟨hnil, _⟩ | ⟨u', rest', hagenda', ⟨_, rfl⟩ | ⟨_, hx⟩⟩⟩ := step_cases hstep
  · cases hagenda.symm.trans hnil
  · exact ⟨absurd rfl, absurd rfl⟩
  · obtain ⟨rfl, rfl⟩ := List.cons.inj (hagenda.symm.trans hagenda')
    obtain ⟨htx, hrx⟩ := turnStep_tails hx
    exact ⟨htx.of_ne, hrx.of_ne⟩

end Sys2Proof.Machine
end

section
/-! PROOFS. The receive registers of 43_receive.md: RDT, RCTL and the buffer size it selects, and the arrays RAL, RAH
and MTA (R111, R112, R122 to R129). -/

namespace Sys2Proof.Machine

/-! ## RDT (R122) -/

theorem exec_csrwRdt_of_fault {s : State} {v : Word} {f : Fault}
    (h : s.regs.rx.tailFault (v.extractLsb' 0 16).toNat .rxTailOutOfRange .rxTailRetract = some f) :
    exec (.csrwRdt v) s = .fault f := by
  simp only [exec, execCsrwRdt, field, h]

theorem exec_csrwRdt_of_accepted {s : State} {v : Word}
    (h : s.regs.rx.tailFault (v.extractLsb' 0 16).toNat .rxTailOutOfRange .rxTailRetract = none) :
    exec (.csrwRdt v) s =
      .next { s with regs := { s.regs with rx := { s.regs.rx with tail := v.extractLsb' 0 16 } } } := by
  simp only [exec, execCsrwRdt, field, h, State.setRx]

/-- Settles O27: `tailFault` decides the write, by the clauses of R122. -/
theorem rdtWriteGrants : Obligations.RdtWriteGrants := by
  refine fun s v n t h old => ⟨writeKey 0x02818 rfl rfl, ?_⟩
  rintro rfl rfl rfl rfl
  refine ⟨fun hn ht => exec_csrwRdt_of_fault (RingRegs.tailFault_of_empty hn ht), fun hn ht => ?emptyZero,
    fun hn ht => exec_csrwRdt_of_fault (RingRegs.tailFault_of_ge hn ht),
    fun hn ht hnear => exec_csrwRdt_of_fault (RingRegs.tailFault_of_nearer hn ht hnear),
    fun hn ht hfar => exec_csrwRdt_of_accepted (RingRegs.tailFault_of_not_nearer hn ht hfar)⟩
  case emptyZero =>
    have hv : v.extractLsb' 0 16 = 0#16 := BitVec.eq_of_toNat_eq ht
    rw [exec_csrwRdt_of_accepted (tailFault_eq_none.2 (.inl ⟨hn, ht⟩)), hv]

/-! ## RCTL (R111, R112) -/

theorem exec_csrrRctl (s : State) : exec .csrrRctl s = .next (s.returnDrawn s.regs.rctl.stored rctlX) := rfl

theorem exec_csrwRctl (v : Word) (s : State) : exec (.csrwRctl v) s = execCsrwRctl v s := rfl

/-- R111: the stored value holds each field at its bits. -/
theorem rctl_stored_fields (r : Rctl) :
    r.stored.extractLsb' 1 1 = BitVec.ofBool r.en ∧ r.stored.extractLsb' 2 1 = BitVec.ofBool r.sbp ∧
      r.stored.extractLsb' 3 1 = BitVec.ofBool r.upe ∧ r.stored.extractLsb' 4 1 = BitVec.ofBool r.mpe ∧
      r.stored.extractLsb' 5 1 = BitVec.ofBool r.lpe ∧ r.stored.extractLsb' 6 2 = r.lbm ∧
      r.stored.extractLsb' 8 2 = r.rdmts ∧ r.stored.extractLsb' 12 2 = r.mo ∧
      r.stored.extractLsb' 15 1 = BitVec.ofBool r.bam ∧ r.stored.extractLsb' 16 2 = r.bsize ∧
      r.stored.extractLsb' 18 1 = BitVec.ofBool r.vfe ∧ r.stored.extractLsb' 19 1 = BitVec.ofBool r.cfien ∧
      r.stored.extractLsb' 20 1 = BitVec.ofBool r.cfi ∧ r.stored.extractLsb' 22 1 = BitVec.ofBool r.dpf ∧
      r.stored.extractLsb' 23 1 = BitVec.ofBool r.pmcf ∧ r.stored.extractLsb' 25 1 = BitVec.ofBool r.bsex ∧
      r.stored.extractLsb' 26 1 = BitVec.ofBool r.secrc := by
  simp (disch := decide) only [Rctl.stored, placeBit, BitVec.extractLsb'_or, extractLsb'_place_same,
    extractLsb'_place_disjoint, BitVec.or_zero, BitVec.zero_or, and_self]

/-- R112: the field values that a write of RCTL refuses. -/
theorem rctlRefused_iff {v : Word} :
    rctlRefused v = true ↔ v.extractLsb' 6 2 ≠ 0#2 ∨ v.extractLsb' 8 2 = 3#2 ∨ v.getLsbD 18 = true ∨
      v.getLsbD 19 = true ∨ (v.getLsbD 25 = true ∧ v.extractLsb' 16 2 = 0#2) := by
  simp only [rctlRefused, field, Bool.or_eq_true, Bool.and_eq_true, bne_iff_ne, beq_iff_eq, or_assoc]

/-- R112: which writes change the buffer size of a receiver that stays enabled. -/
theorem rctlResizes_iff {r : Rctl} {v : Word} :
    rctlResizes r v = true ↔
      r.en = true ∧ v.getLsbD 1 = true ∧ (v.extractLsb' 16 2 ≠ r.bsize ∨ v.getLsbD 25 ≠ r.bsex) := by
  simp only [rctlResizes, field, Bool.or_eq_true, Bool.and_eq_true, bne_iff_ne, and_assoc]

theorem exec_csrwRctl_of_refused {v : Word} (s : State) (h : rctlRefused v = true) :
    exec (.csrwRctl v) s = .fault (.csrValueUnsupported 0x00100 v) := by
  rw [exec_csrwRctl, execCsrwRctl, if_pos h]

/-- Settles O28: no draw reaches the stored fields; of a write the values decide first, then the change of size. -/
theorem rctlReadAndWrite : Obligations.RctlReadAndWrite := by
  refine ⟨rfl, fun s v => ⟨writeKey 0x00100 rfl rfl, ⟨_, _, exec_csrrRctl s, ?read⟩,
    fun hbad => exec_csrwRctl_of_refused s (rctlRefused_iff.2 hbad), fun hlbm hrdmts hvfe hcfien hsize => ?write⟩⟩
  case read =>
    obtain ⟨hen, hsbp, hupe, hmpe, hlpe, hlbm, hrdmts, hmo, hbam, hbsize, hvfe, hcfien, hcfi, hdpf, hpmcf, hbsex,
      hsecrc⟩ := rctl_stored_fields s.regs.rctl
    exact ⟨getLsbD_of_returnDrawn (by decide) hen, getLsbD_of_returnDrawn (by decide) hsbp,
      getLsbD_of_returnDrawn (by decide) hupe, getLsbD_of_returnDrawn (by decide) hmpe,
      getLsbD_of_returnDrawn (by decide) hlpe, (extractLsb'_of_returnDrawn (by decide)).trans hlbm,
      (extractLsb'_of_returnDrawn (by decide)).trans hrdmts, (extractLsb'_of_returnDrawn (by decide)).trans hmo,
      getLsbD_of_returnDrawn (by decide) hbam, (extractLsb'_of_returnDrawn (by decide)).trans hbsize,
      getLsbD_of_returnDrawn (by decide) hvfe, getLsbD_of_returnDrawn (by decide) hcfien,
      getLsbD_of_returnDrawn (by decide) hcfi, getLsbD_of_returnDrawn (by decide) hdpf,
      getLsbD_of_returnDrawn (by decide) hpmcf, getLsbD_of_returnDrawn (by decide) hbsex,
      getLsbD_of_returnDrawn (by decide) hsecrc⟩
  case write =>
    have hadmitted : ¬rctlRefused v = true := by
      simp only [rctlRefused_iff, hlbm, hrdmts, hvfe, hcfien, hsize, ne_eq, not_true_eq_false, Bool.false_eq_true,
        or_self, not_false_eq_true]
    rw [exec_csrwRctl, execCsrwRctl, if_neg hadmitted]
    exact ⟨fun hresize => if_pos (rctlResizes_iff.2 hresize), fun hkeep => if_neg (mt rctlResizes_iff.1 hkeep)⟩

/-! ## The buffer size (R129) -/

/-- Settles O31: the table row by row; the code with no size is among the refused values of R112. -/
theorem rxBufferSizeTable : Obligations.RxBufferSizeTable := by
  refine ⟨fun s v hbsex hbsize => ?refused, fun r => ?table⟩
  case refused =>
    exact exec_csrwRctl_of_refused s (rctlRefused_iff.2 (.inr (.inr (.inr (.inr ⟨hbsex, hbsize⟩)))))
  case table =>
    refine ⟨?_, ?_, ?_, ?_, ?_, ?_, ?_⟩ <;> (intro hbsex hbsize; rw [Rctl.bufSize, hbsex, hbsize]; rfl)

/-! ## RAL and MTA (R123, R124, R127, R128) -/

/-- R57, R58: the key of a write of an array element, whose offset is `base` and its place in the array. -/
theorem arrayWriteKey {i : Instr} (base place : Nat) (hreg : i.reg.offset = base + place)
    (hdata : i.data.isSome = true) : i.key = BitVec.ofNat 18 (base + 0x20000 + place) := by
  rw [writeKey _ hreg hdata, Nat.add_right_comm]

/-- An array with one entry replaced, entry by entry. -/
theorem vector_get_set {α : Type} {n : Nat} (xs : Vector α n) (i m : Fin n) (x : α) :
    (xs.set i.val x i.isLt).get m = if m = i then x else xs.get m := by
  simp only [Vector.get_eq_getElem, Vector.getElem_set, Fin.ext_iff, eq_comm (a := m.val)]

/-- R124, R126: a pair of the table updated by `f`, pair by pair. -/
theorem Csrs.setRa_get (r : Csrs) (n : BitVec 4) (f : RaEntry → RaEntry) (m : Fin 16) :
    (r.setRa n (f (r.raAt n))).ra.get m = if m = n.toFin then f (r.ra.get m) else r.ra.get m := by
  rw [Csrs.setRa, Csrs.raAt]
  refine (vector_get_set r.ra n.toFin m _).trans ?_
  split
  · next hm => rw [hm]
  · rfl

/-- Settles O29: neither array has class X bits, and a write sets one entry. -/
theorem ralAndMtaReadAndWrite : Obligations.RalAndMtaReadAndWrite := fun s n i v =>
  ⟨rfl, arrayWriteKey 0x05400 (8 * n.toNat) rfl rfl, rfl, arrayWriteKey 0x05200 (4 * i.toNat) rfl rfl,
    fun _ => readCell_of_written s _, readCell_of_unwritten s _,
    ⟨_, rfl, Csrs.setRa_get s.regs n fun e => { e with ral := some v }⟩,
    fun _ => readCell_of_written s _, readCell_of_unwritten s _,
    ⟨_, rfl, fun m => vector_get_set s.regs.mta i.toFin m _⟩⟩

/-! ## RAH (R125, R126) -/

/-- R125: RAH cannot be read exactly while one of its fields is `⊥`. -/
theorem raEntry_storedHi_eq_none {e : RaEntry} :
    e.storedHi = none ↔ e.addrHi = none ∨ e.asel = none ∨ e.av = none := by
  simp only [RaEntry.storedHi, joinCells_eq_none, List.exists_mem_cons_iff, List.not_mem_nil, false_and, exists_false,
    or_false, placeCell_eq_none]

/-- R125: once written, RAH holds each field at its bits. -/
theorem raEntry_storedHi_of_written {e : RaEntry} {hi : BitVec 16} {asel : BitVec 2} {av : BitVec 1}
    (hhi : e.addrHi = some hi) (hasel : e.asel = some asel) (hav : e.av = some av) :
    ∃ w, e.storedHi = some w ∧
      w.extractLsb' 0 16 = hi ∧ w.extractLsb' 16 2 = asel ∧ w.extractLsb' 31 1 = av := by
  refine ⟨place 0 hi ||| (place 16 asel ||| (place 31 av ||| 0#32)), by
    rw [RaEntry.storedHi, hhi, hasel, hav]; rfl, ?_⟩
  simp (disch := decide) only [BitVec.extractLsb'_or, extractLsb'_place_same, extractLsb'_place_disjoint,
    BitVec.or_zero, BitVec.zero_or, and_self]

theorem exec_csrrRah (n : BitVec 4) (s : State) :
    exec (.csrrRah n) s = readCells s (0x05404 + 8 * n.toNat) (s.regs.ra.get n.toFin).storedHi rahX := rfl

/-- Settles O30: the fields lie outside the drawn bits 30:18, and ASEL decides between the outcomes of a write. -/
theorem rahReadAndWrite : Obligations.RahReadAndWrite := by
  refine fun s n v => ⟨rfl, arrayWriteKey 0x05404 (8 * n.toNat) rfl rfl, fun hi asel av hhi hasel hav => ?written,
    fun hnone => ?unwritten, fun hsel => if_pos hsel, fun hsel => ?stored⟩
  case written =>
    obtain ⟨w, hstored, hwhi, hwasel, hwav⟩ := raEntry_storedHi_of_written hhi hasel hav
    exact ⟨_, _, by rw [exec_csrrRah, hstored, readCells_some],
      (extractLsb'_of_returnDrawn (by decide)).trans hwhi, (extractLsb'_of_returnDrawn (by decide)).trans hwasel,
      (extractLsb'_of_returnDrawn (by decide)).trans hwav⟩
  case unwritten => rw [exec_csrrRah, raEntry_storedHi_eq_none.2 hnone, readCells]
  case stored =>
    exact ⟨_, if_neg (not_not.2 hsel), Csrs.setRa_get s.regs n fun e => e.withHi v⟩

end Sys2Proof.Machine
end

section
/-! PROOFS. The address filter (R130, R150) and the WIRE_RX step (R131). -/

namespace Sys2Proof.Machine

/-! ## Check 4: the exact-match entries in order -/

/-- R130, check 4: an entry that neither accepts the destination `d` nor faults: its AV is 0, or it holds another
address. -/
def RaEntry.Skips (d : List Byte) (e : RaEntry) : Prop :=
  e.av = some 0#1 ∨ ∃ lo hi, e.av = some 1#1 ∧ e.ral = some lo ∧ e.addrHi = some hi ∧ d ≠ entryBytes lo hi

theorem exactMatch_cons_of_skips {d : List Byte} {e : RaEntry} (n : Nat) (es : List RaEntry) (h : e.Skips d) :
    exactMatch d n (e :: es) = exactMatch d (n + 1) es := by
  rcases h with hav | ⟨lo, hi, hav, hlo, hhi, hne⟩
  · simp [exactMatch, hav]
  · simp [exactMatch, hav, hlo, hhi, hne]

theorem exactMatch_append_of_skips {d : List Byte} {xs : List RaEntry} (n : Nat) (ys : List RaEntry)
    (h : ∀ e ∈ xs, e.Skips d) : exactMatch d n (xs ++ ys) = exactMatch d (n + xs.length) ys := by
  induction xs generalizing n with
  | nil => rfl
  | cons e xs ih =>
    rw [List.cons_append, exactMatch_cons_of_skips n _ (h e (by simp)),
      ih (n + 1) fun x hx => h x (List.mem_cons_of_mem _ hx), List.length_cons, Nat.add_right_comm, Nat.add_assoc]

/-- R130, check 4: entries that are skipped leave the decision to the next one. -/
theorem exactMatch_of_skips_before {d : List Byte} {ra : Vector RaEntry 16} {n : Nat} (hn : n < 16)
    (h : ∀ m (hm : m < n), (ra[m]).Skips d) :
    exactMatch d 0 ra.toList = exactMatch d n (ra[n] :: ra.toList.drop (n + 1)) := by
  have hskip : ∀ e ∈ ra.toList.take n, e.Skips d := by
    intro e he
    obtain ⟨m, hm, rfl⟩ := List.mem_take_iff_getElem.1 he
    simpa using h m (by omega)
  have hsplit : ra.toList = ra.toList.take n ++ ra[n] :: ra.toList.drop (n + 1) := by
    rw [← Vector.getElem_toList (by simpa using hn), List.getElem_cons_drop, List.take_append_drop]
  have hcount : (ra.toList.take n).length = n := by simp [hn.le]
  conv_lhs => rw [hsplit, exactMatch_append_of_skips 0 _ hskip, hcount, Nat.zero_add]

/-- R130, check 4: without an entry that decides, no address matches. -/
theorem exactMatch_of_all_skip {d : List Byte} {ra : Vector RaEntry 16} (h : ∀ m (hm : m < 16), (ra[m]).Skips d) :
    exactMatch d 0 ra.toList = .ok false := by
  have hskip : ∀ e ∈ ra.toList, e.Skips d := by
    intro e he
    obtain ⟨m, hm, rfl⟩ := List.mem_iff_getElem.1 he
    simpa using h m (by simpa using hm)
  simpa [exactMatch] using exactMatch_append_of_skips 0 [] hskip

section
variable {d : List Byte} {e : RaEntry} (n : Nat) (es : List RaEntry)

theorem exactMatch_of_av_unwritten (h : e.av = none) :
    exactMatch d n (e :: es) = .error (.filterUndefined (.rah n)) := by
  simp only [exactMatch, h]

theorem exactMatch_of_address_unwritten (hav : e.av = some 1#1) (h : e.ral = none ∨ e.addrHi = none) :
    exactMatch d n (e :: es) = .error (.filterUndefined (.ra n)) := by
  simp only [exactMatch, hav, if_true]
  split
  · next hlo hhi => simp [hlo, hhi] at h
  · rfl

theorem exactMatch_of_address_eq {lo : BitVec 32} {hi : BitVec 16} (hav : e.av = some 1#1) (hlo : e.ral = some lo)
    (hhi : e.addrHi = some hi) (h : d = entryBytes lo hi) : exactMatch d n (e :: es) = .ok true := by
  simp only [exactMatch, hav, hlo, hhi, if_pos h, if_true]

end

/-! ## Check 5: the multicast table (R130, R150) -/

/-- R150: an address byte shifted right beside one shifted left, as 12 bits. -/
theorem hashBits_toNat (a b : Byte) (i j : Nat) :
    (((a.setWidth 16 >>> i) ||| (b.setWidth 16 <<< j)).setWidth 12).toNat =
      ((a.toNat >>> i) ||| (b.toNat <<< j)) % 4096 := by
  have ha : a.toNat % 2 ^ 16 = a.toNat := Nat.mod_eq_of_lt (by omega)
  have hb : b.toNat % 2 ^ 16 = b.toNat := Nat.mod_eq_of_lt (by omega)
  have hcut (x y : Nat) : (x ||| y % 2 ^ 16) % 2 ^ 12 = (x ||| y) % 2 ^ 12 := by
    rw [Nat.or_mod_two_pow, Nat.mod_mod_of_dvd y (Nat.pow_dvd_pow 2 (by decide)), ← Nat.or_mod_two_pow]
  simp only [BitVec.toNat_setWidth, BitVec.toNat_or, BitVec.toNat_ushiftRight, BitVec.toNat_shiftLeft, ha, hb]
  exact hcut (a.toNat >>> i) (b.toNat <<< j)

/-- R150: the hash by RCTL.MO, on unbounded integers. -/
theorem mtaHash_toNat (mo : BitVec 2) (a b : Byte) :
    (mtaHash mo a b).toNat = (match mo.toNat with
      | 0 => (a.toNat >>> 4) ||| (b.toNat <<< 4)
      | 1 => (a.toNat >>> 3) ||| (b.toNat <<< 5)
      | 2 => (a.toNat >>> 2) ||| (b.toNat <<< 6)
      | _ => a.toNat ||| (b.toNat <<< 8)) % 4096 := by
  have hmo : mo = 0#2 ∨ mo = 1#2 ∨ mo = 2#2 ∨ mo = 3#2 := by revert mo; decide
  rcases hmo with rfl | rfl | rfl | rfl
  · exact hashBits_toNat a b 4 4
  · exact hashBits_toNat a b 3 5
  · exact hashBits_toNat a b 2 6
  · simpa [mtaHash] using hashBits_toNat a b 0 8

/-- The 12-bit hash of a destination address. -/
def destinationHash (r : Csrs) (d : List Byte) : BitVec 12 :=
  mtaHash r.rctl.mo (d.getD 4 0#8) (d.getD 5 0#8)

/-- R130: bits 11:5 of the hash are its quotient by 32. -/
theorem hash_high_toNat (h : BitVec 12) : (h.extractLsb' 5 7).toNat = h.toNat / 32 := by
  simp [Nat.shiftRight_eq_div_pow]
  omega

/-- R130: they name the word of the multicast table. -/
theorem mtaAt_hash (r : Csrs) {h : BitVec 12} (hk : h.toNat / 32 < 128) :
    r.mtaAt (h.extractLsb' 5 7) = r.mta[h.toNat / 32] := by
  simp only [Csrs.mtaAt, Vector.get_eq_getElem, BitVec.val_toFin, hash_high_toNat]

/-- R130: bits 4:0 of the hash name a bit of that word. -/
theorem hash_low_toNat (h : BitVec 12) : (h.extractLsb' 0 5).toNat = h.toNat % 32 := by
  simp

theorem multicastMatch_of_unwritten {r : Csrs} {d : List Byte} (hk : (destinationHash r d).toNat / 32 < 128)
    (h : r.mta[(destinationHash r d).toNat / 32] = none) :
    multicastMatch r d = .error (.filterUndefined (.mta ((destinationHash r d).toNat / 32))) := by
  rw [← mtaAt_hash r hk, destinationHash] at h
  simp only [multicastMatch, destinationHash, h, hash_high_toNat]

theorem multicastMatch_of_written {r : Csrs} {d : List Byte} {w : Word} (hk : (destinationHash r d).toNat / 32 < 128)
    (h : r.mta[(destinationHash r d).toNat / 32] = some w) :
    multicastMatch r d = .ok (w.getLsbD ((destinationHash r d).toNat % 32)) := by
  rw [← mtaAt_hash r hk, destinationHash] at h
  simp only [multicastMatch, destinationHash, h, hash_low_toNat]

/-! ## The checks in order (R130) -/

/-- R130, checks 1 to 3: broadcast, unicast promiscuous, multicast promiscuous. -/
def acceptsEarly (r : Csrs) (d : List Byte) : Bool :=
  (isBroadcast d && r.rctl.bam) || (!isMulticast d && r.rctl.upe) || (isMulticast d && r.rctl.mpe)

/-- R130: the checks from the fourth on decide what the first three leave open. -/
theorem rxFilter_eq (r : Csrs) (p : Frame) :
    rxFilter r p =
      if acceptsEarly r (destination p) then .ok true
      else (exactMatch (destination p) 0 r.ra.toList).bind fun found =>
        if found then .ok true
        else if isMulticast (destination p) then multicastMatch r (destination p) else .ok false := by
  simp only [rxFilter, acceptsEarly, Bool.or_eq_true]
  by_cases hbroadcast : (isBroadcast (destination p) && r.rctl.bam) = true
  · simp only [hbroadcast, if_true, true_or]
  by_cases hunicast : (!isMulticast (destination p) && r.rctl.upe) = true
  · simp only [hbroadcast, hunicast, if_true, true_or, or_true, Bool.false_eq_true, if_false]
  by_cases hmulticast : (isMulticast (destination p) && r.rctl.mpe) = true
  · simp only [hbroadcast, hunicast, hmulticast, if_true, or_true, Bool.false_eq_true, if_false]
  simp only [hbroadcast, hunicast, hmulticast, Bool.false_eq_true, if_false, or_self]
  rcases exactMatch (destination p) 0 r.ra.toList with f | _ | _ <;> rfl

/-- Settles O38: the entries before the deciding one are skipped, and the hash and the table word are those of the
destination. -/
theorem filterChecksInOrder : Obligations.FilterChecksInOrder := by
  intro r p d early skips h _ hd hearly hskips hh
  obtain rfl : d = destination p := hd
  obtain rfl : early = acceptsEarly r (destination p) := hearly
  obtain rfl : h = (destinationHash r (destination p)).toNat := hh.trans (mtaHash_toNat _ _ _).symm
  have hskip {m : Nat} (hm : m < 16) (hs : skips m) : (r.ra[m]).Skips (destination p) := ((hskips m).1 hs).2
  refine ⟨fun hearly => ?early, fun hlate n hn hbefore => ?entry, fun hlate hall => ?noEntry⟩
  case early => rw [rxFilter_eq, if_pos hearly]
  case entry =>
    have hfilter := rxFilter_eq r p
    rw [if_neg (Bool.eq_false_iff.1 hlate),
      exactMatch_of_skips_before hn fun m hm => hskip (hm.trans hn) (hbefore m hm)] at hfilter
    refine ⟨fun hav => ?_, fun hav haddr => ?_, fun lo hi hav hlo hhi haddr => ?_⟩
    · rw [hfilter, exactMatch_of_av_unwritten _ _ hav]; rfl
    · rw [hfilter, exactMatch_of_address_unwritten _ _ hav haddr]; rfl
    · rw [hfilter, exactMatch_of_address_eq _ _ hav hlo hhi haddr]; rfl
  case noEntry =>
    have hfilter := rxFilter_eq r p
    rw [if_neg (Bool.eq_false_iff.1 hlate), exactMatch_of_all_skip fun m hm => hskip hm (hall m hm)] at hfilter
    replace hfilter : rxFilter r p =
      if isMulticast (destination p) then multicastMatch r (destination p) else .ok false := hfilter
    refine ⟨fun hmulticast hk => ?_, fun hunicast => hfilter.trans (if_neg (Bool.eq_false_iff.1 hunicast))⟩
    rw [hfilter.trans (if_pos hmulticast)]
    exact ⟨multicastMatch_of_unwritten hk, fun w => multicastMatch_of_written hk⟩

/-! ## WIRE_RX (R131) -/

/-- R131, R164: when the WIRE_RX turn is enabled. -/
theorem turnEnabled_wireRx {s : State} {p : Frame} :
    turnEnabled s (.wireRx p) = true ↔ s.faults = [] ∧ 60 ≤ p.length := by
  simp only [turnEnabled, wireRxEnabled, Bool.and_eq_true, List.isEmpty_iff, decide_eq_true_eq]
  rfl

theorem wireRxStep_of_off {s : State} {p : Frame} (h : s.inReset = true ∨ s.regs.rctl.en = false) :
    wireRxStep p s = .next s := by
  have hoff : (s.inReset || !s.regs.rctl.en) = true := by simpa using h
  rw [wireRxStep, if_pos hoff]

section
variable {s : State} {p : Frame} (hreset : s.inReset = false) (hen : s.regs.rctl.en = true)
include hreset hen

theorem wireRxStep_of_too_long (hlen : rxMaxFrame s.regs.rctl < p.length) : wireRxStep p s = .next s := by
  simp [wireRxStep, hreset, hen, hlen]

/-- R131: the filter decides about a frame that is short enough. -/
theorem wireRxStep_of_filter (hlen : p.length ≤ rxMaxFrame s.regs.rctl) :
    (∀ f, rxFilter s.regs p = .error f → wireRxStep p s = .fault f) ∧
      (rxFilter s.regs p = .ok false → wireRxStep p s = .next s) ∧
      (rxFilter s.regs p = .ok true → wireRxStep p s = .next (wireRxAccept p s)) := by
  simp only [wireRxStep, hreset, hen, Nat.not_lt.2 hlen, Bool.not_true, Bool.or_self, Bool.false_eq_true, if_false]
  exact ⟨fun f hf => by rw [hf], fun hf => by rw [hf], fun hf => by rw [hf]⟩

end

/-- R131: an accepted frame finds the FIFO full. -/
theorem wireRxAccept_of_full {s : State} (p : Frame) (h : s.params.rxFifoFrames ≤ s.rxFifo.length) :
    ∃ k, wireRxAccept p s = { s with drawn := k, regs := { s.regs with icr := s.regs.icr ||| 0x40#17 } } :=
  ⟨_, if_pos h⟩

/-- R131: an accepted frame enters the FIFO with its FCS bytes. -/
theorem wireRxAccept_of_room {s : State} (p : Frame) (h : s.rxFifo.length < s.params.rxFifoFrames) :
    ∃ k fcs, fcs.length = (if s.regs.rctl.secrc then 0 else 4) ∧
      wireRxAccept p s = { s with drawn := k, rxFifo := s.rxFifo ++ [p ++ fcs] } :=
  ⟨_, _, drawBytes_length s.drawn _, if_neg (Nat.not_le.2 h)⟩

/-- Settles O39: the receiver, the length, the filter and the room in the FIFO decide in this order. -/
theorem wireRxAcceptsOrDrops : Obligations.WireRxAcceptsOrDrops := by
  refine fun s p => ⟨turnEnabled_wireRx, wireRxStep_of_off, fun hreset hen =>
    ⟨wireRxStep_of_too_long hreset hen, fun hlen => ?_⟩⟩
  obtain ⟨hfault, hreject, haccept⟩ := wireRxStep_of_filter hreset hen hlen
  refine ⟨hfault, hreject, fun hok hfull => ?full, fun hok hroom => ?room⟩
  case full =>
    obtain ⟨k, hstate⟩ := wireRxAccept_of_full p hfull
    exact ⟨k, by rw [turnStep, haccept hok, hstate]⟩
  case room =>
    obtain ⟨k, fcs, hfcs, hstate⟩ := wireRxAccept_of_room p hroom
    exact ⟨k, fcs, hfcs, by rw [turnStep, haccept hok, hstate]⟩

end Sys2Proof.Machine
end

section
/-! PROOFS. The chunks of a frame (R149) and the RXD step (R132). -/

namespace Sys2Proof.Machine

/-! ## Chunks (R132, R149) -/

/-- R132: a frame of `n` bytes has a chunk `j` exactly when it has a byte at `j * b`. -/
theorem lt_chunkCount_iff {n b j : Nat} (hb : 0 < b) : j < chunkCount n b ↔ j * b < n := by
  rw [chunkCount, ← Nat.succ_le_iff, Nat.le_div_iff_mul_le hb, Nat.succ_mul]
  omega

theorem le_chunkCount_mul {n b : Nat} (hb : 0 < b) : n ≤ chunkCount n b * b :=
  Nat.not_lt.1 (mt (lt_chunkCount_iff hb).2 (Nat.lt_irrefl _))

/-- R132, R149: chunk `j` of a frame, by its place in the frame. -/
def chunkAt (q : Frame) (b j : Nat) : Frame := (q.drop (j * b)).take b

theorem chunkAt_length (q : Frame) (b j : Nat) : (chunkAt q b j).length = min b (q.length - j * b) := by
  simp [chunkAt]

theorem chunkAt_length_pos {q : Frame} {b j : Nat} (hb : 0 < b) (hj : j < chunkCount q.length b) :
    0 < (chunkAt q b j).length := by
  have hbyte := (lt_chunkCount_iff hb).1 hj
  rw [chunkAt_length]
  omega

theorem chunks_drop_eq_map (b k j : Nat) (q : Frame) :
    chunks b k (q.drop (j * b)) = (List.range' j k).map (chunkAt q b) := by
  induction k generalizing j with
  | zero => rfl
  | succ k ih => rw [chunks, List.drop_drop, ← Nat.succ_mul, ih, List.range'_succ, List.map_cons, chunkAt]

theorem chunks_eq_map (b k : Nat) (q : Frame) : chunks b k q = (List.range' 0 k).map (chunkAt q b) := by
  simpa using chunks_drop_eq_map b k 0 q

theorem chunks_getElem {b k j : Nat} {q : Frame} (hj : j < (chunks b k q).length) :
    (chunks b k q)[j] = chunkAt q b j := by
  simp [chunks_eq_map]

/-- Settles O43: a frame has a byte at `j * b` for each of its chunks, and none at `k * b`. -/
theorem chunksPartitionTheFrame : Obligations.ChunksPartitionTheFrame := by
  rintro q b k hb hq rfl
  have hall := le_chunkCount_mul (n := q.length) hb
  refine ⟨?whole, chunks_length _ _ _, fun j hj hnext => ?inner, fun hj => ?last⟩
  case whole => rw [chunks_flatten, Nat.mul_comm, List.take_of_length_le hall]
  case inner =>
    have hbyte := (lt_chunkCount_iff hb).1 hnext
    rw [Nat.succ_mul] at hbyte
    rw [chunks_getElem, chunkAt_length]
    omega
  case last =>
    rw [chunks_length] at hj
    have hbyte := (lt_chunkCount_iff hb).1 hj
    have hsucc : chunkCount q.length b * b = (chunkCount q.length b - 1) * b + b := by
      rw [← Nat.succ_mul]
      congr 1
      omega
    rw [chunks_getElem, chunkAt_length]
    omega

/-- R129: every buffer size holds a byte. -/
theorem Rctl.bufSize_pos {r : Rctl} {b : Nat} (h : r.bufSize = some b) : 0 < b := by
  simp only [Rctl.bufSize] at h
  split at h
  case h_5 => cases h
  all_goals
    cases h
    decide

/-! ## The plan of a deposit (R132) -/

/-- R132: the deposit of chunk `j`, to the buffer that its own descriptor names (log entry 28). -/
def chunkDeposit (s : State) (base slot : Nat) (c : Nat → Frame) (j : Nat) : Deposit where
  da := descAddr base ((slot + j) % s.regs.rx.slots)
  addr := (readRxDesc s.mem (descAddr base ((slot + j) % s.regs.rx.slots))).addr.toNat
  bytes := c j

/-- R132: the checks of one deposit, in their order. -/
def Deposit.fault (s : State) (d : Deposit) : Option Fault :=
  if !dmaInRange s d.da 8 then some (.dmaOutOfRange .rxd d.da 8)
  else if !dmaInRange s d.da 16 then some (.dmaOutOfRange .rxd d.da 16)
  else if !dmaInRange s d.addr d.bytes.length then some (.dmaOutOfRange .rxd d.addr d.bytes.length)
  else none

theorem Deposit.fault_of_address_beyond {s : State} {d : Deposit} (h : s.params.memBytes < d.da + 8) :
    d.fault s = some (.dmaOutOfRange .rxd d.da 8) :=
  if_pos (not_dmaInRange (by decide) h)

theorem Deposit.fault_of_writeBack_beyond {s : State} {d : Deposit} (haddr : d.da + 8 ≤ s.params.memBytes)
    (h : s.params.memBytes < d.da + 16) : d.fault s = some (.dmaOutOfRange .rxd d.da 16) :=
  (if_neg (dmaInRange_of_le haddr)).trans (if_pos (not_dmaInRange (by decide) h))

theorem Deposit.fault_of_descriptor_inRange {s : State} {d : Deposit} (hda : d.da + 16 ≤ s.params.memBytes) :
    d.fault s =
      if !dmaInRange s d.addr d.bytes.length then some (.dmaOutOfRange .rxd d.addr d.bytes.length) else none :=
  (if_neg (dmaInRange_of_le (by omega))).trans (if_neg (dmaInRange_of_le hda))

theorem Deposit.fault_of_buffer_beyond {s : State} {d : Deposit} (hda : d.da + 16 ≤ s.params.memBytes)
    (hbytes : 0 < d.bytes.length) (h : s.params.memBytes < d.addr + d.bytes.length) :
    d.fault s = some (.dmaOutOfRange .rxd d.addr d.bytes.length) :=
  (fault_of_descriptor_inRange hda).trans (if_pos (not_dmaInRange hbytes h))

theorem Deposit.fault_of_inRange {s : State} {d : Deposit} (hda : d.da + 16 ≤ s.params.memBytes)
    (haddr : d.addr + d.bytes.length ≤ s.params.memBytes) : d.fault s = none :=
  (fault_of_descriptor_inRange hda).trans (if_neg (dmaInRange_of_le haddr))

/-- R132: the checks of a chunk come before those of the chunks after it. -/
theorem planDeposits_cons (s : State) (base slot : Nat) (c : Frame) (cs : List Frame) {d : Deposit}
    (hd : d = ⟨descAddr base slot, (readRxDesc s.mem (descAddr base slot)).addr.toNat, c⟩) :
    planDeposits s base slot (c :: cs) =
      (d.fault s).elim ((planDeposits s base ((slot + 1) % s.regs.rx.slots) cs).map (d :: ·)) .error := by
  subst hd
  simp only [planDeposits, Deposit.fault]
  by_cases haddr : (!dmaInRange s (descAddr base slot) 8) = true
  · simp only [if_pos haddr, Option.elim]
  by_cases hback : (!dmaInRange s (descAddr base slot) 16) = true
  · simp only [if_neg haddr, if_pos hback, Option.elim]
  by_cases hbuf : (!dmaInRange s (readRxDesc s.mem (descAddr base slot)).addr.toNat c.length) = true
  · simp only [if_neg haddr, if_neg hback, if_pos hbuf, Option.elim]
  simp only [if_neg haddr, if_neg hback, if_neg hbuf, Option.elim]
  cases planDeposits s base ((slot + 1) % s.regs.rx.slots) cs <;> rfl

/-- R132: the plan of the chunks from `j` on: the first fault in slot order, else every deposit. -/
theorem planDeposits_range' (s : State) (base slot : Nat) (c : Nat → Frame) (j m : Nat) :
    planDeposits s base ((slot + j) % s.regs.rx.slots) ((List.range' j m).map c) =
      (((List.range' j m).map (chunkDeposit s base slot c)).findSome? (Deposit.fault s)).elim
        (.ok ((List.range' j m).map (chunkDeposit s base slot c))) .error := by
  induction m generalizing j with
  | zero => rfl
  | succ m ih =>
    rw [List.range'_succ, List.map_cons, List.map_cons,
      planDeposits_cons s base _ (c j) _ (d := chunkDeposit s base slot c j) rfl, Nat.mod_add_mod, Nat.add_assoc, ih,
      List.findSome?_cons]
    cases (chunkDeposit s base slot c j).fault s with
    | some f => rfl
    | none =>
      cases ((List.range' (j + 1) m).map (chunkDeposit s base slot c)).findSome? (Deposit.fault s) <;> rfl

end Sys2Proof.Machine
end

section
/-! PROOFS. The RXD step (R132): when it is enabled, what it answers, and what memory holds after it. -/

namespace Sys2Proof.Machine

/-! ## The first fault of a plan (R132) -/

theorem findSome?_range'_eq_some {α : Type} {g : Nat → Option α} {k j : Nat} {x : α} (hj : j < k)
    (hbefore : ∀ i, i < j → g i = none) (hx : g j = some x) : (List.range' 0 k).findSome? g = some x := by
  obtain ⟨m, rfl⟩ := Nat.exists_eq_add_of_lt hj
  have hnone : (List.range' 0 j).findSome? g = none :=
    List.findSome?_eq_none_iff.2 fun i hi => hbefore i (by simpa using hi)
  rw [Nat.add_assoc, ← List.range'_append_1, List.findSome?_append, hnone, Nat.zero_add, List.range'_succ,
    List.findSome?_cons, hx, Option.none_or]

section
variable {s : State} {base slot k : Nat} {c : Nat → Frame} (hslot : slot < s.regs.rx.slots)
include hslot

/-- R132: the plan of a whole frame. -/
theorem planDeposits_eq :
    planDeposits s base slot ((List.range' 0 k).map c) =
      ((List.range' 0 k).findSome? fun i => (chunkDeposit s base slot c i).fault s).elim
        (.ok ((List.range' 0 k).map (chunkDeposit s base slot c))) .error := by
  have hplan := planDeposits_range' s base slot c 0 k
  rwa [Nat.add_zero, Nat.mod_eq_of_lt hslot, List.findSome?_map] at hplan

theorem planDeposits_eq_error {j : Nat} {f : Fault} (hj : j < k)
    (hbefore : ∀ i, i < j → (chunkDeposit s base slot c i).fault s = none)
    (hfault : (chunkDeposit s base slot c j).fault s = some f) :
    planDeposits s base slot ((List.range' 0 k).map c) = .error f := by
  rw [planDeposits_eq hslot, findSome?_range'_eq_some hj hbefore hfault]
  rfl

theorem planDeposits_eq_ok (h : ∀ i, i < k → (chunkDeposit s base slot c i).fault s = none) :
    planDeposits s base slot ((List.range' 0 k).map c) =
      .ok ((List.range' 0 k).map (chunkDeposit s base slot c)) := by
  rw [planDeposits_eq hslot, List.findSome?_eq_none_iff.2 fun i hi => h i (by simpa using hi)]
  rfl

/-- R132: a plan that passed its checks holds the deposit of each chunk. -/
theorem planDeposits_ok_eq {ds : List Deposit} (h : planDeposits s base slot ((List.range' 0 k).map c) = .ok ds) :
    ds = (List.range' 0 k).map (chunkDeposit s base slot c) := by
  rw [planDeposits_eq hslot] at h
  cases hfault : (List.range' 0 k).findSome? fun i => (chunkDeposit s base slot c i).fault s with
  | none => rw [hfault] at h; exact (Except.ok.inj h).symm
  | some f => rw [hfault] at h; cases h

end

/-! ## The deposits (R132) -/

/-- R132: one chunk written to its buffer, and bytes 8 to 15 written back to its descriptor. -/
def depositOne (m : Memory) (d : Deposit) (eop : Bool) (k : Nat) : Memory :=
  Memory.writeBytes (Memory.writeBytes m d.addr d.bytes) (d.da + 8) (writeBackBytes d.bytes.length eop k)

/-- R132: the deposits from `j` on, up to the last one, which has EOP; each makes three draws. -/
theorem applyDeposits_range' (dep : Nat → Deposit) (drawn last : Nat) (m : Memory) (j r : Nat)
    (hlast : j + r = last) :
    applyDeposits m (drawn + 3 * j) ((List.range' j r).map dep) =
      (List.range' j r).foldl (fun m i => depositOne m (dep i) (decide (i + 1 = last)) (drawn + 3 * i)) m := by
  induction r generalizing m j with
  | zero => rfl
  | succ r ih =>
    have heop : ((List.range' (j + 1) r).map dep).isEmpty = decide (j + 1 = last) := by
      rw [Bool.eq_iff_iff, decide_eq_true_eq]
      simp
      omega
    rw [List.range'_succ, List.map_cons, List.foldl_cons, ← ih _ (j + 1) (by omega), applyDeposits, heop]
    rfl

theorem rxStatusByte_decide (d : BitVec 6) (p : Prop) [Decidable p] :
    rxStatusByte d (decide p) = d ++ (if p then 3#2 else 1#2) := by
  by_cases hp : p <;> simp only [hp, decide_true, decide_false, if_true, if_false] <;> rfl

/-- R132, R64: the bytes written back, with 16 drawn bits of checksum, six of status and 16 of the special field. -/
theorem writeBackBytes_decide (len : Nat) (p : Prop) [Decidable p] (k : Nat) :
    writeBackBytes len (decide p) k =
      [BitVec.ofNat 8 len, BitVec.ofNat 8 (len / 256),
        ((Config.draw k).setWidth 16).extractLsb' 0 8, ((Config.draw k).setWidth 16).extractLsb' 8 8,
        (Config.draw (k + 1)).setWidth 6 ++ (if p then 3#2 else 1#2), 0x00#8,
        ((Config.draw (k + 2)).setWidth 16).extractLsb' 0 8, ((Config.draw (k + 2)).setWidth 16).extractLsb' 8 8] := by
  simp (disch := decide) only [writeBackBytes, rxStatusByte_decide, BitVec.extractLsb'_setWidth_of_le]

/-! ## The RXD step (R132) -/

section
variable {s : State} {q : Frame} {rest : List Frame} {b : Nat} (hq : s.rxFifo = q :: rest)
  (hb : s.regs.rctl.bufSize = some b)
include hq hb

/-- R132, R164: when the RXD turn is enabled, while a frame waits. -/
theorem turnEnabled_rxd :
    turnEnabled s .rxd = true ↔
      s.faults = [] ∧ s.inReset = false ∧ s.regs.rctl.en = true ∧ 0 < s.regs.rx.slots ∧
      s.regs.rx.head.toNat < s.regs.rx.slots ∧ s.regs.rx.tail.toNat < s.regs.rx.slots ∧
      (s.regs.rx.slots - 1 < chunkCount q.length b ∨
        (chunkCount q.length b : Int) ≤ ((s.regs.rx.tail.toNat : Int) - s.regs.rx.head.toNat) % s.regs.rx.slots) := by
  have hroom (hn : 0 < s.regs.rx.slots) : chunkCount q.length b ≤ s.regs.rx.owned ↔
      (chunkCount q.length b : Int) ≤ ((s.regs.rx.tail.toNat : Int) - s.regs.rx.head.toNat) % s.regs.rx.slots := by
    rw [← RingRegs.owned_cast hn, Nat.cast_le]
  simp +contextual [turnEnabled, rxdEnabled, hq, hb, RingRegs.usable, and_assoc, hroom]

theorem rxdStep_of_overrun (hk : s.regs.rx.slots - 1 < chunkCount q.length b) :
    rxdStep s = .next { s with rxFifo := rest, regs := { s.regs with icr := setCause s.regs.icr .rxo } } := by
  simp only [rxdStep, hq, hb, if_pos hk]

theorem rxdStep_of_base_undefined (hk : chunkCount q.length b ≤ s.regs.rx.slots - 1) (hbase : s.regs.rx.base = none) :
    rxdStep s = .fault (.dmaRegUndefined .rx) := by
  simp only [rxdStep, hq, hb, if_neg (Nat.not_lt.2 hk), hbase]

/-- R132: a frame that fits the ring goes where its plan says, or not at all. -/
theorem rxdStep_of_base {base : Nat} (hk : chunkCount q.length b ≤ s.regs.rx.slots - 1)
    (hbase : s.regs.rx.base = some base) :
    (∀ f, planDeposits s base s.regs.rx.head.toNat ((List.range' 0 (chunkCount q.length b)).map (chunkAt q b)) =
        .error f → rxdStep s = .fault f) ∧
    (∀ ds, planDeposits s base s.regs.rx.head.toNat ((List.range' 0 (chunkCount q.length b)).map (chunkAt q b)) =
        .ok ds →
      rxdStep s = .next { s with
        mem := applyDeposits s.mem s.drawn ds
        drawn := s.drawn + 3 * chunkCount q.length b
        rxFifo := rest
        regs := { s.regs with
          rx := s.regs.rx.advance (chunkCount q.length b)
          icr := setCauseIf (setCause s.regs.icr .rxt0) (rxLow s (s.regs.rx.advance (chunkCount q.length b)))
            .rxdmt0 } }) := by
  rw [← chunks_eq_map]
  simp only [rxdStep, hq, hb, if_neg (Nat.not_lt.2 hk), hbase]
  exact ⟨fun f hf => by rw [hf], fun ds hds => by rw [hds]⟩

end

/-- R132: the causes of a deposit: RXT0, and RXDMT0 when few descriptors are free. -/
theorem rxdCauses_eq {s : State} {rx : RingRegs} (hn : 0 < rx.slots) :
    setCauseIf (setCause s.regs.icr .rxt0) (rxLow s rx) .rxdmt0 =
      s.regs.icr ||| 0x80#17 |||
        (if ((rx.tail.toNat : Int) - rx.head.toNat) % rx.slots ≤
            ((rx.slots >>> (1 + s.regs.rctl.rdmts.toNat) : Nat) : Int) then 0x10#17 else 0x0#17) := by
  have hlow : rxLow s rx = true ↔ ((rx.tail.toNat : Int) - rx.head.toNat) % rx.slots ≤
      ((rx.slots >>> (1 + s.regs.rctl.rdmts.toNat) : Nat) : Int) := by
    rw [rxLow, decide_eq_true_eq, ← ringDist_cast _ _ hn, Nat.cast_le]
  simp only [setCauseIf, hlow]
  split
  · rfl
  · exact (BitVec.or_zero).symm

/-- Settles O40: the plan's first fault decides; without one the deposits are written in slot order. -/
theorem rxdDepositsOldestFrame : Obligations.RxdDepositsOldestFrame := by
  rintro s n b k q rest rfl hq hb rfl
  refine ⟨turnEnabled_rxd hq hb, rxdStep_of_overrun hq hb,
    fun hfits hnone => rxdStep_of_base_undefined hq hb hfits (RingRegs.base_of_unwritten hnone), ?_⟩
  intro lo hi da a c hfits hlo hhi hda ha hc
  obtain rfl : c = chunkAt q b := funext hc
  obtain ⟨hfault, hstep⟩ := rxdStep_of_base hq hb hfits (RingRegs.base_of_written hlo hhi)
  have hdep (j : Nat) : chunkDeposit s (hi.toNat * 2 ^ 32 + lo.toNat * 16) s.regs.rx.head.toNat (chunkAt q b) j =
      ⟨da j, a j, chunkAt q b j⟩ := by
    rw [chunkDeposit, readRxDesc_addr_toNat, ha, hda]
    rfl
  have hclear {j : Nat} :
      da j + 16 ≤ s.params.memBytes ∧ a j + (chunkAt q b j).length ≤ s.params.memBytes →
      (chunkDeposit s (hi.toNat * 2 ^ 32 + lo.toNat * 16) s.regs.rx.head.toNat (chunkAt q b) j).fault s = none := by
    rintro ⟨hdesc, hbuf⟩
    rw [hdep]
    exact Deposit.fault_of_inRange hdesc hbuf
  refine ⟨fun hhead j hj hbefore => ?outOfRange, fun hhead hin => ?deposit⟩
  case outOfRange =>
    have hraise {f : Fault} (h : Deposit.fault s ⟨da j, a j, chunkAt q b j⟩ = some f) : rxdStep s = .fault f :=
      hfault f (planDeposits_eq_error hhead hj (fun i hi => hclear (hbefore i hi)) ((congrArg _ (hdep j)).trans h))
    exact ⟨fun hbeyond => hraise (Deposit.fault_of_address_beyond hbeyond),
      fun haddr hbeyond => hraise (Deposit.fault_of_writeBack_beyond haddr hbeyond),
      fun hdesc hbeyond => hraise (Deposit.fault_of_buffer_beyond hdesc
        (chunkAt_length_pos (Rctl.bufSize_pos hb) hj) hbeyond)⟩
  case deposit =>
    have hpos : 0 < s.regs.rx.slots := Nat.zero_lt_of_lt hhead
    replace hstep := hstep _ (planDeposits_eq_ok hhead fun j hj => hclear (hin j hj))
    rw [← Nat.add_zero s.drawn, applyDeposits_range' _ s.drawn _ s.mem 0 _ (Nat.zero_add _),
      rxdCauses_eq (by exact hpos), RingRegs.advance_head _ hpos] at hstep
    simp only [hdep, depositOne, writeBackBytes_decide, ← List.range_eq_range'] at hstep
    exact ⟨fun j => (Config.draw (s.drawn + 3 * j)).setWidth 16,
      fun j => (Config.draw (s.drawn + 3 * j + 2)).setWidth 16,
      fun j => (Config.draw (s.drawn + 3 * j + 1)).setWidth 6, _, hstep⟩

/-- R65: with EOP the low bits of STATUS are DD = EOP = 1. -/
theorem rxStatusByte_eop_low (d : BitVec 6) : (rxStatusByte d true).extractLsb' 0 2 = 3#2 := by
  revert d
  decide

/-! ## Memory after a deposit of one descriptor (R132, R64) -/

/-- R132: a frame of 1 to `b` bytes takes one descriptor. -/
theorem chunkCount_eq_one {n b : Nat} (hn : 1 ≤ n) (hb : n ≤ b) : chunkCount n b = 1 := by
  have hone := (lt_chunkCount_iff (n := n) (b := b) (j := 0) (by omega)).2 (by omega)
  have htwo := mt (lt_chunkCount_iff (n := n) (b := b) (j := 1) (by omega)).1 (by omega)
  omega

theorem chunkAt_zero {q : Frame} {b : Nat} (h : q.length ≤ b) : chunkAt q b 0 = q := by
  simp [chunkAt, List.take_of_length_le h]

/-- R132: an enabled step that goes on with a frame of 1 to `b` bytes makes one deposit, at the head. -/
theorem rxdStep_one_descriptor {s t : State} {q : Frame} {rest : List Frame} {b base da a : Nat}
    (hen : turnEnabled s .rxd = true) (hq : s.rxFifo = q :: rest) (hb : s.regs.rctl.bufSize = some b)
    (hpos : 1 ≤ q.length) (hle : q.length ≤ b) (hbase : s.regs.rx.base = some base)
    (hda : da = base + 16 * s.regs.rx.head.toNat) (ha : a = Memory.readLE s.mem da 8) (hx : rxdStep s = .next t) :
    t.mem = depositOne s.mem ⟨da, a, q⟩ true s.drawn := by
  rw [ha, hda]
  obtain ⟨_, _, _, hslots, hhead, _, _⟩ := (turnEnabled_rxd hq hb).1 hen
  have hcount := chunkCount_eq_one hpos hle
  have hfits : chunkCount q.length b ≤ s.regs.rx.slots - 1 := by
    unfold RingRegs.slots at hslots ⊢
    omega
  obtain ⟨hfault, hstep⟩ := rxdStep_of_base hq hb hfits hbase
  cases hplan : planDeposits s base s.regs.rx.head.toNat
      ((List.range' 0 (chunkCount q.length b)).map (chunkAt q b)) with
  | error f => cases (hfault f hplan).symm.trans hx
  | ok ds =>
    cases (hstep ds hplan).symm.trans hx
    obtain rfl := planDeposits_ok_eq hhead hplan
    rw [hcount]
    simp only [List.range'_one, List.map_cons, List.map_nil, applyDeposits, chunkDeposit, readRxDesc_addr_toNat,
      Nat.add_zero, Nat.mod_eq_of_lt hhead, chunkAt_zero hle]
    rfl

@[simp] theorem writeBackBytes_length (len : Nat) (eop : Bool) (k : Nat) : (writeBackBytes len eop k).length = 8 := rfl

/-- R132: a deposit leaves every byte outside its buffer and bytes 8 to 15 of its descriptor alone. -/
theorem depositOne_read_outside (m : Memory) (d : Deposit) (eop : Bool) (k : Nat) {x : Nat}
    (hbuf : ¬(d.addr ≤ x ∧ x < d.addr + d.bytes.length)) (hback : ¬(d.da + 8 ≤ x ∧ x < d.da + 16)) :
    Memory.read (depositOne m d eop k) x = Memory.read m x := by
  rw [depositOne, Memory.read_writeBytes_outside _ _ _ (by rw [writeBackBytes_length]; omega),
    Memory.read_writeBytes_outside _ _ _ (by omega)]

section
variable {m : Memory} (hwf : Memory.wf m = true) (d : Deposit) (eop : Bool) (k : Nat)
include hwf

/-- R132: the chunk stands in the buffer, but for bytes the write-back covers. -/
theorem depositOne_read_buffer {j : Nat} (hj : j < d.bytes.length)
    (hback : ¬(d.da + 8 ≤ d.addr + j ∧ d.addr + j < d.da + 16)) :
    Memory.read (depositOne m d eop k) (d.addr + j) = d.bytes[j] := by
  rw [depositOne, Memory.read_writeBytes_outside _ _ _ (by rw [writeBackBytes_length]; omega),
    Memory.read_writeBytes_inside hwf _ _ hj]

/-- R64: byte `8 + j` of the descriptor is byte `j` written back. -/
theorem depositOne_read_writeBack {j : Nat} (hj : j < 8) :
    Memory.read (depositOne m d eop k) (d.da + 8 + j) = (writeBackBytes d.bytes.length eop k)[j] :=
  Memory.read_writeBytes_inside (Memory.writeBytes_wf hwf _ _) _ _ hj

/-- R65: DD and EOP after a deposit with EOP. -/
theorem depositOne_read_status_low :
    (Memory.read (depositOne m d true k) (d.da + 12)).extractLsb' 0 2 = 3#2 := by
  rw [depositOne_read_writeBack hwf d true k (j := 4) (by decide)]
  exact rxStatusByte_eop_low _

theorem depositOne_read_errors : Memory.read (depositOne m d eop k) (d.da + 13) = 0x00#8 :=
  depositOne_read_writeBack hwf d eop k (j := 5) (by decide)

/-- R64: the length field after a deposit. -/
theorem depositOne_readLE_length :
    Memory.readLE (depositOne m d eop k) (d.da + 8) 2 = d.bytes.length % 65536 := by
  have hlow := depositOne_read_writeBack hwf d eop k (j := 0) (by decide)
  have hhigh := depositOne_read_writeBack hwf d eop k (j := 1) (by decide)
  simp only [Memory.readLE, Memory.readBytes, leNat]
  rw [← Nat.add_zero (d.da + 8), hlow, hhigh]
  simp [writeBackBytes]
  omega

end

/-- Settles O41: memory is that of the one deposit, which writes the frame and then the eight write-back bytes. -/
theorem rxdWritesBufferAndWriteBackOnly : Obligations.RxdWritesBufferAndWriteBackOnly := by
  intro s t q rest b base da a hwf hen hq hb hpos hle hbase hda ha hx
  rw [rxdStep_one_descriptor hen hq hb hpos hle hbase hda ha hx]
  exact ⟨fun x => depositOne_read_outside s.mem ⟨da, a, q⟩ true s.drawn,
    fun j => depositOne_read_buffer hwf ⟨da, a, q⟩ true s.drawn,
    depositOne_readLE_length hwf ⟨da, a, q⟩ true s.drawn, depositOne_read_status_low hwf ⟨da, a, q⟩ s.drawn,
    depositOne_read_errors hwf ⟨da, a, q⟩ true s.drawn⟩

end Sys2Proof.Machine
end

section
/-! PROOFS. Control forms of host programs (R68, R159 to R162): each is one step that moves its task and nothing else. -/

namespace Sys2Proof.Machine

/-! ## Labels (R152) -/

/-- The label search is the library's search for the first such form. -/
theorem findLabel_eq_findIdx? (code : List Form) (l : Nat) :
    findLabel code l = code.findIdx? (· = .label l) := by
  induction code with
  | nil => rfl
  | cons f fs ih => by_cases hf : f = .label l <;> simp [findLabel, List.findIdx?_cons, hf, ih]

/-- R152: a label is found where it stands and stands nowhere before. -/
theorem findLabel_eq_some_iff {code : List Form} {l p : Nat} :
    findLabel code l = some p ↔ code[p]? = some (.label l) ∧ ∀ q < p, code[q]? ≠ some (.label l) := by
  rw [findLabel_eq_findIdx?, List.findIdx?_eq_some_iff_getElem]
  constructor
  · rintro ⟨hp, hlabel, hbefore⟩
    refine ⟨List.getElem?_eq_some_iff.mpr ⟨hp, of_decide_eq_true hlabel⟩, fun q hq => ?_⟩
    simpa [List.getElem?_eq_getElem (hq.trans hp)] using hbefore q hq
  · rintro ⟨hlabel, hbefore⟩
    obtain ⟨hp, hget⟩ := List.getElem?_eq_some_iff.mp hlabel
    refine ⟨hp, decide_eq_true hget, fun q hq => ?_⟩
    simpa [List.getElem?_eq_getElem (hq.trans hp)] using hbefore q hq

/-- R152: a label that stands once in a program is found where it stands. -/
theorem findLabel_of_unique {code : List Form} {l p : Nat} (hp : code[p]? = some (.label l))
    (huniq : ∀ q, code[q]? = some (.label l) → q = p) : findLabel code l = some p :=
  findLabel_eq_some_iff.mpr ⟨hp, fun q hq hlabel => hq.ne (huniq q hlabel)⟩

/-! ## Temporaries (R68) -/

/-- Without the entries of a temporary, every other one reads as before. -/
theorem tempValue_filter_ne (temps : List (Nat × Int)) {d c : Nat} (hc : c ≠ d) :
    tempValue (temps.filter fun p => p.1 != d) c = tempValue temps c := by
  induction temps with
  | nil => rfl
  | cons p rest ih => by_cases hp : p.1 = d <;> simp [tempValue, hp, hc.symm, ih]

/-- R68: an assignment gives its temporary the value and leaves the others. -/
theorem tempValue_setTemp (temps : List (Nat × Int)) (d : Nat) (v : Int) (c : Nat) :
    tempValue (setTemp temps d v) c = if c = d then v else tempValue temps c := by
  by_cases hc : c = d
  · simp [setTemp, tempValue, hc]
  · simp [setTemp, tempValue, hc, Ne.symm hc, tempValue_filter_ne temps hc]

/-! ## Branches and ends (R159 to R162) -/

theorem hostJump_of_found {s : State} {k l p : Nat} {t : Task} (hp : findLabel t.code l = some p) :
    hostJump k t l s = .next (s.setTask k { t with pos := p, moved := [] }) := by
  simp only [hostJump, hp]

theorem nextForm_of_ended {t : Task} (h : t.status ≠ .running) : t.nextForm = none := by
  unfold Task.nextForm
  split
  · next hrun => exact absurd hrun h
  · rfl

/-- R169: task `k` replaced by one that has ended has no step to make. -/
theorem hostEnabled_setTask_of_ended {s : State} {k : Nat} {t : Task} (h : t.status ≠ .running) :
    hostEnabled k (s.setTask k t) = false := by
  rcases Nat.lt_or_ge k s.tasks.length with hk | hk <;> simp [hostEnabled, hk, nextForm_of_ended h]

section
variable {s : State} {k l : Nat} {t : Task} {x y : Expr} (ht : s.tasks[k]? = some t)
include ht

/-- R159: beq, taken when the operands are equal. -/
theorem hostStep_beq (hf : t.nextForm = some (.beq x y l)) :
    hostStep k s = if evalExpr t.temps x = evalExpr t.temps y then hostJump k t l s else .next (s.setTask k t.advance) :=
  hostStep_eq_hostForm ht hf

/-- R160: bne, taken when the operands differ. -/
theorem hostStep_bne (hf : t.nextForm = some (.bne x y l)) :
    hostStep k s = if evalExpr t.temps x = evalExpr t.temps y then .next (s.setTask k t.advance) else hostJump k t l s :=
  hostStep_eq_hostForm ht hf

/-- R161, R162, R68: a form whose rule ends the task performs that end, and the task has no step to make after it. -/
theorem hostStep_of_end {f : Form} {status : TaskStatus} (hf : t.nextForm = some f)
    (hform : hostForm k t s f = .next (s.setTask k { t with status := status })) (hend : status ≠ .running) :
    hostStep k s = .next (s.setTask k { t with status := status }) ∧
      hostEnabled k (s.setTask k { t with status := status }) = false :=
  ⟨(hostStep_eq_hostForm ht hf).trans hform, hostEnabled_setTask_of_ended hend⟩

end

/-- Settles O52, form by form. -/
theorem controlFormsMoveOnlyTheTask : Obligations.ControlFormsMoveOnlyTheTask := by
  intro s k t x y l p d ht
  refine ⟨findLabel_of_unique, fun hf => ⟨fun heq hp => ?_, fun hne => ?_⟩, fun hf => ⟨fun hne hp => ?_, fun heq => ?_⟩,
    hostStep_eq_hostForm ht, fun hf => ⟨hostStep_eq_hostForm ht hf, tempValue_setTemp t.temps d _⟩,
    fun hf => hostStep_of_end ht hf rfl (by simp), fun hf => hostStep_of_end ht hf rfl (by simp),
    fun hf => hostStep_of_end ht hf rfl (by simp)⟩
  · obtain ⟨hlabel, _⟩ := findLabel_eq_some_iff.mp hp
    exact ⟨hlabel, by rw [hostStep_beq ht hf, if_pos heq, hostJump_of_found hp]⟩
  · rw [hostStep_beq ht hf, if_neg hne]
  · obtain ⟨hlabel, _⟩ := findLabel_eq_some_iff.mp hp
    exact ⟨hlabel, by rw [hostStep_bne ht hf, if_neg hne, hostJump_of_found hp]⟩
  · rw [hostStep_bne ht hf, if_pos heq]

end Sys2Proof.Machine
end

section
/-! PROOFS. Aligned host accesses (R157, R158): one step moves all the bytes. -/

namespace Sys2Proof.Machine

/-! ## The value of the bytes of a load (R41) -/

/-- R41: digit `j` in base 256 is byte `j`. -/
theorem leNat_div_mod (bs : List Byte) {j : Nat} (hj : j < bs.length) : leNat bs / 256 ^ j % 256 = bs[j].toNat := by
  induction bs generalizing j with
  | nil => exact absurd hj (Nat.not_lt_zero j)
  | cons b bs ih =>
    have hb := b.isLt
    cases j with
    | zero => simp only [leNat, List.getElem_cons_zero]; omega
    | succ j =>
      have htail : leNat (b :: bs) / 256 = leNat bs := by rw [leNat]; omega
      rw [Nat.pow_succ', ← Nat.div_div_eq_div_mul, htail]
      exact ih (Nat.lt_of_succ_lt_succ hj)

@[simp] theorem loadBytes_length (s : State) (x n : Nat) : (loadBytes s x n).1.length = n := by
  induction n generalizing s x with
  | zero => rfl
  | succ n ih => simp [loadBytes, ih]

/-- R49: a byte of a load that is no hardware-owned RX buffer byte is memory's; the draws made before it do not
matter. -/
theorem loadBytes_getElem_of_not_owned {s : State} {x n j : Nat} (hj : j < (loadBytes s x n).1.length)
    (hown : rxBufferOwner s (x + j) = none) : (loadBytes s x n).1[j] = Memory.read s.mem (x + j) := by
  induction n generalizing s x j with
  | zero => exact absurd hj (Nat.not_lt_zero j)
  | succ n ih =>
    cases j with
    | zero => exact congrArg Prod.fst (loadByte_of_not_owned hown)
    | succ j =>
      obtain ⟨d, hd⟩ := loadByte_state s x
      have hnext : x + (j + 1) = x + 1 + j := by omega
      simp only [loadBytes, List.getElem_cons_succ, hd, hnext]
      exact ih _ (hnext ▸ hown)

/-! ## The bytes a store leaves (R158) -/

/-- R158, R41: memory after the bytes of a store's value are written, at every address. -/
theorem read_writeBytes_storeBytes {m : Memory} (h : Memory.wf m = true) (x n : Nat) (v : Int) (y : Nat) :
    Memory.read (Memory.writeBytes m x (storeBytes n v)) y =
      if x ≤ y ∧ y < x + n then BitVec.ofInt 8 (v / 2 ^ (8 * (y - x))) else Memory.read m y := by
  have hlen : (storeBytes n v).length = n := bytesOfNat_length n _
  split
  · next hin =>
    obtain ⟨hlo, hhi⟩ := hin
    obtain ⟨j, rfl⟩ := Nat.exists_eq_add_of_le hlo
    have hj : j < n := by omega
    rw [Memory.read_writeBytes_inside h x _ (hlen.symm ▸ hj), Nat.add_sub_cancel_left, ← storeBytes_getD v hj,
      List.getD_eq_getElem]
  · exact Memory.read_writeBytes_outside m x _ (by omega)

/-! ## One step of an aligned access -/

section
variable {s : State} {k x : Nat} {t : Task} {w : Width} {a : Expr} (hx : evalExpr t.temps a = (x : Int))
  (halign : x % widthBytes w = 0) (hin : x + widthBytes w ≤ s.params.memBytes)
include hx halign hin

/-- R158: an aligned store of which no byte is hardware-owned writes all its bytes at once. -/
theorem hostStore_aligned_free {e : Expr} (hfree : firstOwner s x (widthBytes w) = none) :
    hostStore k t w a e s =
      .next (({ s with mem := Memory.writeBytes s.mem x (storeBytes (widthBytes w) (evalExpr t.temps e)) } :
        State).setTask k t.advance) := by
  simp [hostStore, hx, halign, Nat.not_lt.mpr hin, hfree]

/-- R48: an aligned store of which a byte is hardware-owned faults at its own address. -/
theorem hostStore_aligned_owned {e : Expr} {slot : Nat} (hown : firstOwner s x (widthBytes w) = some slot) :
    hostStore k t w a e s = .fault (.ownershipViolation x slot) := by
  simp [hostStore, hx, halign, Nat.not_lt.mpr hin, hown]

/-- R157: an aligned load takes all its bytes at once. -/
theorem hostLoad_aligned (d : Nat) :
    let p := loadBytes s x (widthBytes w)
    hostLoad k t w d a s = .next (p.2.setTask k (t.assign d (leNat p.1)).advance) := by
  simp [hostLoad, hx, halign, Nat.not_lt.mpr hin]

end

/-- Settles O47: the store's step, and the owner of the first hardware-owned byte, if there is one. -/
theorem alignedStoreWritesOrFaults : Obligations.AlignedStoreWritesOrFaults := by
  intro s k x n t w a e ht hf hx hn halign hin hwf
  obtain rfl : n = widthBytes w := hn.trans (by cases w <;> rfl)
  have hform := hostStep_eq_hostForm ht hf
  refine ⟨fun hfree => ?_, fun ⟨y, hlo, hhi, hown⟩ => ?_⟩
  · exact ⟨_, hform.trans (hostStore_aligned_free hx halign hin (firstOwner_eq_none.mpr hfree)),
      read_writeBytes_storeBytes hwf x _ _⟩
  · have hsome : firstOwner s x (widthBytes w) ≠ none := fun hnone => hown (firstOwner_eq_none.mp hnone y hlo hhi)
    obtain ⟨slot, hslot⟩ := Option.ne_none_iff_exists'.mp hsome
    exact ⟨slot, hform.trans (hostStore_aligned_owned hx halign hin hslot)⟩

/-- Settles O48: the bytes are those the load takes, and the value is their number. -/
theorem alignedLoadReadsMemoryOrDraws : Obligations.AlignedLoadReadsMemoryOrDraws := by
  intro s k x n d t w a ht hf hx hn halign hin
  obtain rfl : n = widthBytes w := hn.trans (by cases w <;> rfl)
  obtain ⟨k', hk'⟩ := loadBytes_state s x (widthBytes w)
  have hlen := loadBytes_length s x (widthBytes w)
  refine ⟨(loadBytes s x (widthBytes w)).1, k', leNat (loadBytes s x (widthBytes w)).1, hlen,
    fun j => loadBytes_getElem_of_not_owned, ?_, fun j => leNat_div_mod _, ?_⟩
  · simpa only [hlen] using leNat_lt (loadBytes s x (widthBytes w)).1
  · rw [hostStep_eq_hostForm ht hf, ← hk']
    exact hostLoad_aligned hx halign hin d

end Sys2Proof.Machine
end

section
/-! PROOFS. 60_exceptions.md: the level of the interrupt line (R167), faults (R164), and what sets and clears a cause
(R166). -/

namespace Sys2Proof.Machine

/-! ## The interrupt line (R167) -/

/-- Settles O15: the line is low exactly when no bit of ICR is 1 together with its bit of the mask. -/
theorem interruptLineIsLevelOfEnabledCauses : Obligations.InterruptLineIsLevelOfEnabledCauses := by
  intro s
  rw [intr, bne_iff_ne]
  constructor
  · contrapose!
    intro hnone
    refine BitVec.eq_of_getLsbD_eq fun c hc => ?_
    rw [BitVec.getLsbD_and, BitVec.getLsbD_zero, Bool.and_eq_false_imp]
    exact fun hicr => Bool.eq_false_iff.2 (hnone c hc hicr)
  · rintro ⟨c, _, hicr, hmask⟩ hzero
    have hbit : (s.regs.icr &&& s.regs.imask).getLsbD c = true := by rw [BitVec.getLsbD_and, hicr, hmask]; rfl
    rw [hzero, BitVec.getLsbD_zero] at hbit
    cases hbit

/-! ## Faults (R164) -/

/-- R164: once a fault is recorded, every step answers the first fault of the record. -/
theorem step_of_recorded {s : State} {f : Fault} {fs : List Fault} (h : s.faults = f :: fs) : step s = .fault f := by
  simp only [step, stepFault, h, List.head?_cons]

/-- R164: once a fault is recorded, no agent is enabled. -/
theorem turnEnabled_of_recorded {s : State} {f : Fault} {fs : List Fault} (h : s.faults = f :: fs) (u : Turn) :
    turnEnabled s u = false := by
  simp only [turnEnabled, h, List.isEmpty_cons, Bool.false_and]

/-- Settles O56: a fault settles as the first of the record, which the next step answers. -/
theorem faultsArePreciseAndTerminal : Obligations.FaultsArePreciseAndTerminal := by
  refine ⟨fun s f hfree hfault => ?_, fun s f fs hrec => ⟨step_of_recorded hrec, turnEnabled_of_recorded hrec⟩⟩
  have hsettle : settle s (step s) = { s with faults := [f] } := by
    rw [hfault, settle, State.recordFault, hfree, List.nil_append]
  exact ⟨hsettle, by rw [hsettle]; exact step_of_recorded rfl⟩

/-! ## The bits of ICR (R21, R166) -/

theorem getLsbD_setCause (icr : BitVec 17) (e : Cause) (c : Nat) :
    (setCause icr e).getLsbD c = (icr.getLsbD c || decide (c = e.bit)) := by
  have hbit : e.bit < 17 := by cases e <;> decide
  have hmask : e.mask = BitVec.twoPow 17 e.bit := rfl
  simp only [setCause, hmask, BitVec.getLsbD_or, BitVec.getLsbD_twoPow, hbit, decide_true, Bool.true_and, eq_comm]

theorem getLsbD_setCauseIf (icr : BitVec 17) (b : Bool) (e : Cause) (c : Nat) :
    (setCauseIf icr b e).getLsbD c = (icr.getLsbD c || (b && decide (c = e.bit))) := by
  cases b with
  | false => simp [setCauseIf]
  | true => simp [setCauseIf, getLsbD_setCause]

/-- R77, R78, R80: what the rule of a register makes of ICR. -/
def icrAfter (i : Instr) (icr : BitVec 17) : BitVec 17 :=
  match i with
  | .csrrIcr => 0#17
  | .csrwIcr v => icr &&& ~~~(v.setWidth 17)
  | .csrwIcs v => icr ||| v.setWidth 17
  | _ => icr

theorem exec_icr {i : Instr} {s u : State} (h : exec i s = .next u) : u.regs.icr = icrAfter i s.regs.icr := by
  cases i with
  | csrrIcr | csrwStatus | csrwEecd | csrwIcr | csrwIcs | csrwIms | csrwImc | csrwTipg | csrwRal | csrwMta =>
    cases h
    rfl
  | csrwEerd | csrwTdt | csrwRdt =>
    simp only [exec, execCsrwEerd, execCsrwTdt, execCsrwRdt] at h
    split at h <;> cases h <;> rfl
  | csrwCtrl | csrwTctl | csrwRah | csrwTdbal | csrwTdbah | csrwTdlen | csrwRdbal | csrwRdbah | csrwRdlen =>
    obtain ⟨_, rfl⟩ := guard_eq_next.1 h
    rfl
  | csrwRctl | csrwTdh | csrwRdh =>
    obtain ⟨_, _, rfl⟩ := guards_eq_next.1 h
    rfl
  | _ => exact congrArg Csrs.icr (exec_read_regs rfl (by nofun) h)

/-! ## The events of the causes (R166) -/

/-- R166: the events by which the step of a turn from `s` to `t` sets cause `c`. -/
inductive RaisesCause (s t : State) : Turn → Nat → Prop
  | completion {e : TxEntry} {es : List TxEntry} (hcons : s.txInflight = e :: es) (hrs : e.rs = true) :
      RaisesCause s t .txc 0
  | queueEmpty {e : TxEntry} (hring : s.regs.tx.head = s.regs.tx.tail) (hlast : s.txInflight = [e]) :
      RaisesCause s t .txc 1
  | deposit {c b : Nat} {q : Frame} {qs : List Frame} (hq : s.rxFifo = q :: qs) (hb : s.regs.rctl.bufSize = some b)
      (hfits : chunkCount q.length b ≤ s.regs.rx.slots - 1) (hc : c = 7 ∨ (c = 4 ∧ rxLow t t.regs.rx = true)) :
      RaisesCause s t .rxd c
  | neverFits {b : Nat} {q : Frame} {qs : List Frame} (hq : s.rxFifo = q :: qs) (hb : s.regs.rctl.bufSize = some b)
      (hover : s.regs.rx.slots - 1 < chunkCount q.length b) : RaisesCause s t .rxd 6
  | fifoFull {p : Frame} (hfull : s.params.rxFifoFrames ≤ s.rxFifo.length) : RaisesCause s t (.wireRx p) 6
  | icsWrite {k c : Nat} {x : Transaction} (hx : NextTransaction s k x) (hwrite : x.write = true)
      (hoffset : x.offset = 0x000C8) (hbit : x.value.getLsbD c = true) : RaisesCause s t (.host k) c

/-- R166, R177: the events by which the step of a turn from `s` clears cause `c`. -/
inductive ClearsCause (s : State) : Turn → Nat → Prop
  | reset {c : Nat} : ClearsCause s .rst c
  | icrAccess {k c : Nat} {x : Transaction} (hx : NextTransaction s k x) (hoffset : x.offset = 0x000C0)
      (hclears : x.write = false ∨ x.value.getLsbD c = true) : ClearsCause s (.host k) c

/-- R166: every cause that stands after the step stood before it or was set by an event, and every cause that stood
before the step still stands or was cleared by one. -/
def CauseOutcome (s t : State) (u : Turn) : Prop :=
  ∀ c, c < 17 →
    (t.regs.icr.getLsbD c = true → s.regs.icr.getLsbD c = true ∨ RaisesCause s t u c) ∧
    (s.regs.icr.getLsbD c = true → t.regs.icr.getLsbD c = true ∨ ClearsCause s u c)

theorem causeOutcome_of_same {s t : State} {u : Turn} (h : t.regs.icr = s.regs.icr) : CauseOutcome s t u :=
  fun _ _ => ⟨fun hc => .inl (h ▸ hc), fun hc => .inl (h ▸ hc)⟩

/-- A step that only sets causes, those in `raised`. -/
theorem causeOutcome_of_or {s t : State} {u : Turn} (raised : Nat → Bool)
    (hbits : ∀ c, c < 17 → t.regs.icr.getLsbD c = (s.regs.icr.getLsbD c || raised c))
    (hraised : ∀ c, raised c = true → RaisesCause s t u c) : CauseOutcome s t u := by
  refine fun c hc => ⟨fun ht => ?_, fun hs => .inl ?_⟩
  · rw [hbits c hc, Bool.or_eq_true] at ht
    exact ht.imp_right (hraised c)
  · rw [hbits c hc, hs, Bool.true_or]

theorem causeOutcome_of_setCause {s t : State} {u : Turn} (e : Cause) (hicr : t.regs.icr = setCause s.regs.icr e)
    (hraised : RaisesCause s t u e.bit) : CauseOutcome s t u := by
  refine causeOutcome_of_or (fun c => decide (c = e.bit)) (fun c _ => by rw [hicr, getLsbD_setCause]) fun c hc => ?_
  obtain rfl := of_decide_eq_true hc
  exact hraised

/-! ## Each agent's step -/

/-- R107: TXC sets TXDW for an entry with RS = 1, and TXQE when it leaves ring and queue empty. -/
theorem txcStep_causes {s t : State} (h : txcStep s = .next t) : CauseOutcome s t .txc := by
  rcases txcStep_outcome h with ⟨_, rfl⟩ | ⟨e, rest, m, hcons, _, rfl⟩
  · exact causeOutcome_of_same rfl
  · refine causeOutcome_of_or
      (fun c => (e.rs && decide (c = 0)) || (rest.isEmpty && s.regs.tx.head == s.regs.tx.tail && decide (c = 1)))
      (fun c _ => ?_) fun c hc => ?_
    · rw [txcCauses, getLsbD_setCauseIf, getLsbD_setCauseIf, Bool.or_assoc]
      rfl
    · simp only [Bool.or_eq_true, Bool.and_eq_true, decide_eq_true_eq, beq_iff_eq, List.isEmpty_iff] at hc
      rcases hc with ⟨hrs, rfl⟩ | ⟨⟨rfl, hring⟩, rfl⟩
      · exact .completion hcons hrs
      · exact .queueEmpty hring hcons

/-- R131: WIRE_RX sets RXO when an accepted frame finds the FIFO full. -/
theorem wireRxStep_causes {p : Frame} {s t : State} (h : wireRxStep p s = .next t) : CauseOutcome s t (.wireRx p) := by
  rcases wireRxStep_outcome h with rfl | ⟨_, _, rfl⟩
  · exact causeOutcome_of_same rfl
  · simp only [wireRxAccept]
    split
    · next hfull => exact causeOutcome_of_setCause .rxo rfl (.fifoFull hfull)
    · exact causeOutcome_of_same rfl

/-- R132: RXD sets RXO when it drops a frame that cannot fit; a deposit sets RXT0, and RXDMT0 when few descriptors are
left free. -/
theorem rxdStep_causes {s t : State} (h : rxdStep s = .next t) : CauseOutcome s t .rxd := by
  rcases rxdStep_outcome h with ⟨_, rfl⟩ | ⟨q, rest, b, hq, hb, ⟨hover, rfl⟩ | ⟨hfits, base, ds, _, hbase, hplan, _⟩⟩
  · exact causeOutcome_of_same rfl
  · exact causeOutcome_of_setCause .rxo rfl (.neverFits hq hb hover)
  · rw [chunks_eq_map] at hplan
    rw [(rxdStep_of_base hq hb hfits hbase).2 ds hplan] at h
    cases h
    refine causeOutcome_of_or
      (fun c => decide (c = 7) || (rxLow s (s.regs.rx.advance (chunkCount q.length b)) && decide (c = 4)))
      (fun c _ => ?_) fun c hc => ?_
    · rw [getLsbD_setCauseIf, getLsbD_setCause, Bool.or_assoc]
      rfl
    · simp only [Bool.or_eq_true, Bool.and_eq_true, decide_eq_true_eq] at hc
      exact .deposit hq hb hfits (hc.imp_right And.symm)

/-- R69: a transaction that runs a write rule is a write of that register, with that value. -/
theorem transaction_of_write {x : Transaction} {i : Instr} {v : Word} (hcheck : checkTransaction x = .ok i)
    (hdata : i.data = some v) : x.offset = i.reg.offset ∧ x.write = true ∧ x.value = v := by
  obtain ⟨hoffset, hx⟩ := instr_of_checkTransaction hcheck
  rw [hdata] at hx
  cases hdir : x.write with
  | false => simp [hdir] at hx
  | true => exact ⟨hoffset.symm, rfl, by simpa [hdir] using hx.symm⟩

/-- R69: a transaction that runs a read rule is a read of that register. -/
theorem transaction_of_read {x : Transaction} {i : Instr} (hcheck : checkTransaction x = .ok i)
    (hdata : i.data = none) : x.offset = i.reg.offset ∧ x.write = false := by
  obtain ⟨hoffset, hx⟩ := instr_of_checkTransaction hcheck
  rw [hdata] at hx
  cases hdir : x.write with
  | false => exact ⟨hoffset.symm, rfl⟩
  | true => simp [hdir] at hx

/-- R77, R78, R80: a host step sets causes by a write of ICS, and clears them by a read or a write of ICR. -/
theorem hostStep_causes {k : Nat} {s t : State} (h : hostStep k s = .next t) : CauseOutcome s t (.host k) := by
  rcases hostStep_regs h with hsame | ⟨x, i, u, hx, hcheck, hu, hregs⟩
  · exact causeOutcome_of_same (by rw [hsame])
  have hicr : t.regs.icr = icrAfter i s.regs.icr := by rw [hregs, exec_icr hu]
  cases i with
  | csrrIcr =>
    obtain ⟨hoffset, hread⟩ := transaction_of_read hcheck rfl
    refine fun c _ => ⟨fun hc => ?_, fun _ => .inr (.icrAccess hx hoffset (.inl hread))⟩
    simp [hicr, icrAfter] at hc
  | csrwIcr v =>
    obtain ⟨hoffset, _, rfl⟩ := transaction_of_write hcheck rfl
    refine fun c hc => ⟨fun ht => ?_, fun hs => ?_⟩
    · rw [hicr, icrAfter, BitVec.getLsbD_and, Bool.and_eq_true] at ht
      exact .inl ht.1
    · cases hbit : x.value.getLsbD c with
      | true => exact .inr (.icrAccess hx hoffset (.inr hbit))
      | false => exact .inl (by simp [hicr, icrAfter, hs, hc, hbit])
  | csrwIcs v =>
    obtain ⟨hoffset, hwrite, rfl⟩ := transaction_of_write hcheck rfl
    refine causeOutcome_of_or (fun c => x.value.getLsbD c) (fun c hc => ?_) fun c => .icsWrite hx hwrite hoffset
    simp [hicr, icrAfter, hc]
  | _ => exact causeOutcome_of_same hicr

/-- R166: the fetch and the EEPROM step leave the causes, and the reset clears them all. -/
theorem turnStep_causes {s t : State} {u : Turn} (h : turnStep s u = .next t) : CauseOutcome s t u := by
  cases u with
  | host k => exact hostStep_causes h
  | txf =>
    obtain ⟨base, d, _, _, _, _, _, _, _, rfl⟩ := txfStep_eq_next h
    exact causeOutcome_of_same rfl
  | txc => exact txcStep_causes h
  | wireRx p => exact wireRxStep_causes h
  | rxd => exact rxdStep_causes h
  | eep => cases h; exact causeOutcome_of_same rfl
  | rst =>
    obtain ⟨out, k, rfl⟩ := rstStep_outcome h
    refine fun c _ => ⟨fun hc => ?_, fun _ => .inr .reset⟩
    simp [Csrs.reset] at hc

/-! ## Every step -/

theorem step_causes {s t : State} {u : Turn} {rest : List Turn} (hagenda : s.agenda = u :: rest)
    (hstep : step s = .next t) : CauseOutcome { s with agenda := rest } t u := by
  obtain ⟨_, ⟨hnil, _⟩ | ⟨u', rest', hagenda', hturn⟩⟩ := step_cases hstep
  · cases hagenda.symm.trans hnil
  · obtain ⟨rfl, rfl⟩ := List.cons.inj (hagenda.symm.trans hagenda')
    rcases hturn with ⟨_, rfl⟩ | ⟨_, hrun⟩
    · exact causeOutcome_of_same rfl
    · exact turnStep_causes hrun

/-- Settles O58: the events of the agent whose turn the step takes, one by one. -/
theorem causesChangeOnlyByTheirEvents : Obligations.CausesChangeOnlyByTheirEvents := by
  intro s t u rest c hagenda hstep hc
  obtain ⟨hrise, hfall⟩ := step_causes hagenda hstep c hc
  refine ⟨fun hlow hhigh => ?_, fun hhigh hlow => ?_⟩
  · cases (hrise hhigh).resolve_left (Bool.eq_false_iff.1 hlow) with
    | completion hcons hrs => exact .inl ⟨rfl, rfl, _, _, hcons, hrs⟩
    | queueEmpty hring hlast => exact .inr (.inl ⟨rfl, rfl, hring, _, hlast⟩)
    | deposit hq hb hfits hcause => exact .inr (.inr (.inl ⟨rfl, _, _, _, hq, hb, .inl ⟨hfits, hcause⟩⟩))
    | neverFits hq hb hover => exact .inr (.inr (.inl ⟨rfl, _, _, _, hq, hb, .inr ⟨hover, rfl⟩⟩))
    | fifoFull hfull => exact .inr (.inr (.inr (.inl ⟨rfl, ⟨_, rfl⟩, hfull⟩)))
    | icsWrite hx hwrite hoffset hbit =>
      obtain ⟨task, f, htask, hf, hform⟩ := hx
      exact .inr (.inr (.inr (.inr ⟨_, task, f, _, rfl, htask, hf, hform, hwrite, hoffset, hbit⟩)))
  · cases (hfall hhigh).resolve_left (Bool.eq_false_iff.1 hlow) with
    | reset => exact .inl rfl
    | icrAccess hx hoffset hclears =>
      obtain ⟨task, f, htask, hf, hform⟩ := hx
      exact .inr ⟨_, task, f, _, rfl, htask, hf, hform, hoffset, hclears⟩

end Sys2Proof.Machine
end

section
/-! PROOFS. 70_reset_and_hazards.md: power-on reset (R176, R178) and software reset (R177). -/

namespace Sys2Proof.Machine

/-! ## The reset values of the register arrays (R178) -/

theorem raReset_zero : raReset[0] = ⟨none, none, none, none⟩ := rfl

theorem raReset_of_pos {n : Nat} (hn : n < 16) (hpos : 1 ≤ n) : raReset[n] = ⟨none, none, none, some 0#1⟩ := by
  rw [raReset, Vector.getElem_set_ne _ _ (by omega), Vector.getElem_replicate]

theorem mta_reset {i : Nat} (hi : i < 128) : Csrs.reset.mta[i] = none := Vector.getElem_replicate hi

/-! ## Power-on reset (R176) -/

/-- R176: with both engines off, no queue entry and no pending read, nothing but a frame from the link or a host
task can move. -/
theorem turnEnabled_powerOn (p : Params) (m : Memory) {u : Turn} (hwire : ∀ q, u ≠ .wireRx q)
    (hhost : ∀ k, u ≠ .host k) : turnEnabled (State.powerOn p m) u = false := by
  cases u with
  | host k => exact absurd rfl (hhost k)
  | wireRx q => exact absurd rfl (hwire q)
  | txf | txc | rxd | eep | rst => rfl

/-- R176, R167: with no cause and no mask bit set the line is low. -/
theorem intr_powerOn (p : Params) (m : Memory) : intr (State.powerOn p m) = false := by
  have hlow : (0#17 &&& 0#17 != 0#17) = false := by decide
  exact hlow

/-- Settles O53: `State.powerOn` gives the single fields by definition; the arrays are read entry by entry. -/
theorem powerOnResetValues : Obligations.PowerOnResetValues := by
  rintro p m s rfl
  exact ⟨rfl, rfl, rfl, rfl, rfl, rfl, rfl, rfl, rfl, rfl, rfl, rfl, rfl, rfl, rfl, rfl, rfl, rfl, rfl, rfl, rfl,
    raReset_zero, fun _ => raReset_of_pos, fun _ => mta_reset, intr_powerOn p m, fun _ => turnEnabled_powerOn p m⟩

/-- R176: with well-formed parameters and a canonical memory inside MEM_BYTES, power-on reset meets the invariant. -/
theorem powerOn_legal {p : Params} {m : Memory} (hparams : p.wellFormed = true) (hwf : Memory.wf m = true)
    (hbelow : Memory.below p.memBytes m) : (State.powerOn p m).Legal := by
  have hctrl : Csrs.reset.ctrl.legal := by decide
  have hrctl : Csrs.reset.rctl.legal := by decide
  have hra : ∀ e ∈ Csrs.reset.ra.toList, e.legal := by decide
  exact ⟨hparams, hwf, hbelow, hctrl, hrctl, rfl, hra, nofun, Nat.zero_le _, nofun, Nat.zero_le _, nofun⟩

/-- Settles O54: the example parameters are well-formed, and a memory with nothing listed is canonical. -/
theorem resetStateIsLegal : Obligations.ResetStateIsLegal :=
  ⟨powerOn_legal (by decide) rfl nofun, rfl, rfl, rfl⟩

/-! ## The start of a software reset, and what it holds (R74, R177) -/

/-- R74: a write of CTRL can start a reset, and cannot end one. -/
theorem exec_csrwCtrl_inReset {v : Word} {s t : State} (h : exec (.csrwCtrl v) s = .next t) :
    t.inReset = (s.inReset || v.getLsbD 26) := by
  obtain ⟨_, rfl⟩ := guard_eq_next.1 h
  rfl

/-- R177: when the RST turn is enabled. -/
theorem turnEnabled_rst {s : State} : turnEnabled s .rst = true ↔ s.faults = [] ∧ s.inReset = true := by
  simp only [turnEnabled, rstEnabled, Bool.and_eq_true, List.isEmpty_iff]

/-- R177: a form that issues no transaction is not held. -/
theorem held_of_noTransaction {s : State} {t : Task} {f : Form} (h : formTransaction t.temps f = none) :
    held s t f = false := by
  simp [held, h]

/-- R177: loads and stores go on during a reset. -/
theorem turnEnabled_host_of_noTransaction {s : State} {k : Nat} {t : Task} {f : Form} (hfaults : s.faults = [])
    (ht : s.tasks[k]? = some t) (hf : t.nextForm = some f) (hx : formTransaction t.temps f = none) :
    turnEnabled s (.host k) = true := by
  simp only [turnEnabled, hfaults, List.isEmpty_nil, hostEnabled_eq_not_held ht hf, held_of_noTransaction hx,
    Bool.not_false, Bool.and_self]

section
variable {s : State} (hreset : s.inReset = true)
include hreset

/-- R177: the reset holds every device step but WIRE_RX and RST. -/
theorem turnEnabled_device_of_inReset :
    turnEnabled s .txf = false ∧ turnEnabled s .txc = false ∧ turnEnabled s .rxd = false ∧
      turnEnabled s .eep = false := by
  simp only [turnEnabled, txfEnabled, txcEnabled, rxdEnabled, eepEnabled, hreset, Bool.not_true, Bool.false_and,
    Bool.and_false, and_self]

/-- R69, R177: the reset holds a transaction that passed its checks. -/
theorem turnEnabled_host_of_inReset {k : Nat} {t : Task} {f : Form} {x : Transaction} {i : Instr}
    (ht : s.tasks[k]? = some t) (hf : t.nextForm = some f) (hx : formTransaction t.temps f = some x)
    (hcheck : checkTransaction x = .ok i) : turnEnabled s (.host k) = false := by
  simp only [turnEnabled, hostEnabled_of_checked ht hf hx hcheck, hreset, Bool.not_true, Bool.and_false]

/-! ## What keeps a reset in progress (R177) -/

/-- R74: no CSR transaction ends a reset. -/
theorem exec_keeps_inReset {i : Instr} {t : State} (h : exec i s = .next t) : t.inReset = true := by
  by_cases hreg : i.reg = .ctrl
  · cases i with
    | csrrCtrl =>
      obtain ⟨_, _, _, rfl⟩ := exec_read_outcome rfl h
      exact hreset
    | csrwCtrl v => rw [exec_csrwCtrl_inReset h, hreset, Bool.true_or]
    | _ => cases hreg
  · obtain ⟨_, _, _, _, _, _, _, _, _, _, hsame, _⟩ := transactionsTouchOnlyRegisters i s t h
    exact (hsame hreg).trans hreset

theorem hostStep_keeps_inReset {k : Nat} {t : State} (h : hostStep k s = .next t) : t.inReset = true := by
  rcases hostStep_outcome h with (rfl | ⟨i, u, task, hexec, rfl⟩) | ⟨a, vs, d, task, _, rfl⟩
  · exact hreset
  · exact exec_keeps_inReset (t := u) hreset hexec
  · exact hreset

/-- R177: only the RST turn ends a reset: the other device turns are idle or drop a frame. -/
theorem runTurn_keeps_inReset {t : State} {u : Turn} (hu : u ≠ .rst) (h : runTurn s u = .next t) :
    t.inReset = true := by
  obtain ⟨htxf, htxc, hrxd, heep⟩ := turnEnabled_device_of_inReset hreset
  rcases runTurn_cases h with ⟨_, rfl⟩ | ⟨hen, hstep⟩
  · exact hreset
  cases u with
  | host k => exact hostStep_keeps_inReset hreset hstep
  | wireRx p =>
    cases (wireRxStep_of_off (.inl hreset)).symm.trans hstep
    exact hreset
  | txf => cases htxf.symm.trans hen
  | txc => cases htxc.symm.trans hen
  | rxd => cases hrxd.symm.trans hen
  | eep => cases heep.symm.trans hen
  | rst => exact absurd rfl hu

end

/-! ## The RST step (R177) -/

/-- R177: the enabled RST turn ends the reset. -/
theorem runTurn_rst_completes {s t : State} (hen : turnEnabled s .rst = true) (h : runTurn s .rst = .next t) :
    t.inReset = false := by
  rw [runTurn, if_pos hen] at h
  obtain ⟨_, _, rfl⟩ := rstStep_outcome h
  rfl

/-- R107: `w` is the frame of `e` as TXC sends it, padded to 60 bytes when PSP is set. -/
def SentAs (psp : Bool) (e : TxEntry) (w : WireFrame) : Prop :=
  w.fcsInserted = e.ifcs ∧ ∃ pad : Frame, w.bytes = e.frame ++ pad ∧
    pad.length = (if psp = true ∧ e.frame.length < 60 then 60 - e.frame.length else 0)

/-- R107, R177: an emission adds one frame, sent as TXC sends it. -/
theorem emitEntry_sends (s : State) (e : TxEntry) :
    ∃ w k, SentAs s.regs.tctl.psp e w ∧ emitEntry s e = { s with wireOut := s.wireOut ++ [w], drawn := k } :=
  ⟨_, _, ⟨rfl, drawBytes s.drawn (padLength s.regs.tctl.psp e.frame), rfl, by rw [drawBytes_length, padLength_eq]⟩,
    rfl⟩

/-- R177: the frames a reset emits are those of some of the entries, in their order. -/
theorem emitSome_sends (es : List TxEntry) (s : State) :
    ∃ chosen out k, chosen.Sublist es ∧ List.Forall₂ (SentAs s.regs.tctl.psp) chosen out ∧
      emitSome es s = { s with wireOut := s.wireOut ++ out, drawn := k } := by
  induction es generalizing s with
  | nil => exact ⟨[], [], s.drawn, .slnil, .nil, by simp [emitSome]⟩
  | cons e es ih =>
    simp only [emitSome]
    split
    · obtain ⟨w, k, hw, hemit⟩ := emitEntry_sends { s with drawn := s.drawn + 1 } e
      obtain ⟨chosen, out, j, hsub, hsent, hrest⟩ := ih (emitEntry { s with drawn := s.drawn + 1 } e)
      rw [hemit] at hsent hrest ⊢
      exact ⟨e :: chosen, w :: out, j, hsub.cons_cons e, .cons hw hsent, by rw [hrest, List.append_assoc]; rfl⟩
    · obtain ⟨chosen, out, j, hsub, hsent, hrest⟩ := ih { s with drawn := s.drawn + 1 }
      exact ⟨chosen, out, j, hsub.cons e, hsent, hrest⟩

/-! ## Fair runs (R169) -/

/-- R169: a weakly fair turn comes while a condition holds that enables it and that no other turn ends: with no such
turn the condition would last for ever, and fairness would give the turn. -/
theorem weaklyFair_turn_while {schedule : Nat → Turn} {states : Nat → State} {u : Turn} {n : Nat} (P : State → Prop)
    (hfair : weaklyFair schedule states u) (hstart : P (states n))
    (hkeep : ∀ m, n ≤ m → P (states m) → schedule m ≠ u → P (states (m + 1)))
    (hen : ∀ m, n ≤ m → P (states m) → turnEnabled (states m) u = true) :
    ∃ m, n ≤ m ∧ schedule m = u ∧ P (states m) := by
  by_contra hnone
  have hlasts (m : Nat) (hm : n ≤ m) : P (states m) := by
    induction m, hm using Nat.le_induction with
    | base => exact hstart
    | succ m hm ih => exact hkeep m hm ih fun hu => hnone ⟨m, hm, hu, ih⟩
  obtain ⟨m, hm, hu⟩ := hfair n fun m hm => hen m hm (hlasts m hm)
  exact hnone ⟨m, hm, hu, hlasts m hm⟩

/-- R177: in a fair run without faults a reset in progress is completed by an RST turn. -/
theorem fairRun_completes_reset {schedule : Nat → Turn} {states : Nat → State} {n : Nat}
    (hfair : fairRun schedule states) (hfaults : ∀ m, n ≤ m → (states m).faults = [])
    (hreset : (states n).inReset = true) :
    ∃ m, n ≤ m ∧ schedule m = .rst ∧ (states m).inReset = true ∧ (states (m + 1)).inReset = false := by
  obtain ⟨hrun, _, _, _, hrst, _⟩ := hfair
  have henabled (m : Nat) (hm : n ≤ m) (hm' : (states m).inReset = true) : turnEnabled (states m) .rst = true :=
    turnEnabled_rst.2 ⟨hfaults m hm, hm'⟩
  obtain ⟨m, hm, hu, hstill⟩ := weaklyFair_turn_while (fun s => s.inReset = true) hrst hreset
    (fun m _ hm' hu => runTurn_keeps_inReset hm' hu (hrun m)) henabled
  have hstep := hrun m
  rw [hu] at hstep
  exact ⟨m, hm, hu, hstill, runTurn_rst_completes (henabled m hm hstill) hstep⟩

/-- Settles O55: while the reset lasts only the RST turn ends it, so fairness completes it; the step's emissions are
those of `emitSome`. -/
theorem softwareReset : Obligations.SoftwareReset := by
  refine ⟨fun _ _ _ => fairRun_completes_reset, fun s => ⟨?start, fun hreset => ?held, turnEnabled_rst, ?step⟩⟩
  case start =>
    intro v t hrst h
    rw [exec_csrwCtrl_inReset h, hrst, Bool.or_true]
  case held =>
    obtain ⟨htxf, htxc, hrxd, heep⟩ := turnEnabled_device_of_inReset hreset
    refine ⟨htxf, htxc, hrxd, heep, fun p => wireRxStep_of_off (.inl hreset),
      fun k t f x i => turnEnabled_host_of_inReset hreset, fun k t w d a e hfaults ht hf => ?_⟩
    rcases hf with hf | hf <;> exact turnEnabled_host_of_noTransaction hfaults ht hf rfl
  case step =>
    obtain ⟨chosen, out, k, hsub, hsent, hemit⟩ := emitSome_sends s.txInflight s
    exact ⟨chosen, out, k, hsub, hsent, by rw [turnStep, rstStep, hemit]; rfl⟩

end Sys2Proof.Machine
end
